-- ==== Sys2Proof/Word.lean ====
section
/-! DEFINITION. The bit-vector types of the block: bytes, 16-bit words, register numbers (spec/00_scope.md R5, R6). -/

namespace Sys2Proof

/-- An 8-bit value: a V register, a memory byte, an immediate nn (`REG_W`, R5). -/
abbrev Byte := BitVec 8

/-- A 16-bit value: an instruction word, PC, I, a return address (`PC_W`, `I_W`, `INSN_W`, R5). -/
abbrev Word := BitVec 16

/-- A register number 0..15, the value of a field x or y (R69). -/
abbrev RegIdx := BitVec 4

/-- A key code 0..15 of the 16-key pad (`NKEYS`, R5; R39). -/
abbrev KeyCode := BitVec 4

end Sys2Proof
end

