-- ==== Sys2Proof/Syntax.lean ====
section
/-! DEFINITION. The instructions: one constructor for each row of spec/opcode_table.json (34 instructions and UNKNOWN; R77, R86). -/

namespace Sys2Proof

/-- An instruction with its operand fields (R68, R69). The docstring of a constructor is its assembler form (R84). -/
inductive Instr where
  /-- `CLS` (00E0) -/
  | cls
  /-- `RET` (00EE) -/
  | ret
  /-- `JP nnn` (1nnn) -/
  | jp (nnn : BitVec 12)
  /-- `CALL nnn` (2nnn) -/
  | call (nnn : BitVec 12)
  /-- `SE Vx, nn` (3xnn) -/
  | seImm (x : RegIdx) (nn : Byte)
  /-- `SNE Vx, nn` (4xnn) -/
  | sneImm (x : RegIdx) (nn : Byte)
  /-- `SE Vx, Vy` (5xy0) -/
  | seReg (x y : RegIdx)
  /-- `LD Vx, nn` (6xnn) -/
  | ldImm (x : RegIdx) (nn : Byte)
  /-- `ADD Vx, nn` (7xnn) -/
  | addImm (x : RegIdx) (nn : Byte)
  /-- `LD Vx, Vy` (8xy0) -/
  | ldReg (x y : RegIdx)
  /-- `OR Vx, Vy` (8xy1) -/
  | or (x y : RegIdx)
  /-- `AND Vx, Vy` (8xy2) -/
  | and (x y : RegIdx)
  /-- `XOR Vx, Vy` (8xy3) -/
  | xor (x y : RegIdx)
  /-- `ADD Vx, Vy` (8xy4) -/
  | addReg (x y : RegIdx)
  /-- `SUB Vx, Vy` (8xy5) -/
  | sub (x y : RegIdx)
  /-- `SHR Vx {, Vy}` (8xy6) -/
  | shr (x y : RegIdx)
  /-- `SUBN Vx, Vy` (8xy7) -/
  | subn (x y : RegIdx)
  /-- `SHL Vx {, Vy}` (8xyE) -/
  | shl (x y : RegIdx)
  /-- `SNE Vx, Vy` (9xy0) -/
  | sneReg (x y : RegIdx)
  /-- `LD I, nnn` (Annn) -/
  | ldI (nnn : BitVec 12)
  /-- `JP V0, nnn` (Bnnn) -/
  | jpV0 (nnn : BitVec 12)
  /-- `RND Vx, nn` (Cxnn) -/
  | rnd (x : RegIdx) (nn : Byte)
  /-- `DRW Vx, Vy, n` (Dxyn) -/
  | drw (x y : RegIdx) (n : BitVec 4)
  /-- `SKP Vx` (Ex9E) -/
  | skp (x : RegIdx)
  /-- `SKNP Vx` (ExA1) -/
  | sknp (x : RegIdx)
  /-- `LD Vx, DT` (Fx07) -/
  | ldVxDt (x : RegIdx)
  /-- `LD Vx, K` (Fx0A) -/
  | ldVxK (x : RegIdx)
  /-- `LD DT, Vx` (Fx15) -/
  | ldDtVx (x : RegIdx)
  /-- `LD ST, Vx` (Fx18) -/
  | ldStVx (x : RegIdx)
  /-- `ADD I, Vx` (Fx1E) -/
  | addI (x : RegIdx)
  /-- `LD F, Vx` (Fx29) -/
  | ldF (x : RegIdx)
  /-- `LD B, Vx` (Fx33) -/
  | ldB (x : RegIdx)
  /-- `LD [I], Vx` (Fx55) -/
  | ldMemVx (x : RegIdx)
  /-- `LD Vx, [I]` (Fx65) -/
  | ldVxMem (x : RegIdx)
  /-- `.word w`: a word that no other row matches (R135) -/
  | unknown (w : Word)
  deriving DecidableEq, Repr

end Sys2Proof
end

