-- ==== Sys2Proof/WellFormed.lean ====
section
/-! DEFINITION. Which terms of Instr stand for an instruction of the block. Every operand field has exactly its encoding's
width, so the one condition is on UNKNOWN: its word lies in the UNKNOWN space of spec/30_encoding.md R77. -/

namespace Sys2Proof

/-- The UNKNOWN space, group by group, as the table of R77 lists it. -/
def inUnknownSpace (w : Word) : Bool :=
  let n := w.extractLsb' 0 4
  let nn := w.extractLsb' 0 8
  match (w.extractLsb' 12 4).toNat with
  | 0x0 => !(w == 0x00E0#16) && !(w == 0x00EE#16)
  | 0x5 => !(n == 0#4)
  | 0x8 => [0x8#4, 0x9#4, 0xA#4, 0xB#4, 0xC#4, 0xD#4, 0xF#4].contains n
  | 0x9 => !(n == 0#4)
  | 0xE => !([0x9E#8, 0xA1#8].contains nn)
  | 0xF => !([0x07#8, 0x0A#8, 0x15#8, 0x18#8, 0x1E#8, 0x29#8, 0x33#8, 0x55#8, 0x65#8].contains nn)
  | _ => false

/-- A well-formed instruction: an UNKNOWN carries a word of the UNKNOWN space (R77); every other term is well formed (R69). -/
def Instr.wf : Instr → Bool
  | .unknown w => inUnknownSpace w
  | _ => true

end Sys2Proof
end

