-- ==== Sys2Proof/Decode.lean ====
section
/-! DEFINITION. Fields, the decoder (pure, stateless, total; spec/30_encoding.md R68 to R78), the encoder written from the
same tables, the match/mask table of R86, and the host's decodeTableWord. -/

namespace Sys2Proof

/-- op = bits 15..12 (R68). -/
def opField (w : Word) : BitVec 4 := w.extractLsb' 12 4

/-- x = bits 11..8 (R68). -/
def xField (w : Word) : RegIdx := w.extractLsb' 8 4

/-- y = bits 7..4 (R68). -/
def yField (w : Word) : RegIdx := w.extractLsb' 4 4

/-- n = bits 3..0 (R68). -/
def nField (w : Word) : BitVec 4 := w.extractLsb' 0 4

/-- nn = bits 7..0 (R68). -/
def nnField (w : Word) : Byte := w.extractLsb' 0 8

/-- nnn = bits 11..0 (R68). -/
def nnnField (w : Word) : BitVec 12 := w.extractLsb' 0 12

/-- Group 0x0 dispatches on the whole word (R71). -/
def decodeGroup0 (w : Word) : Instr :=
  if w = 0x00E0#16 then .cls
  else if w = 0x00EE#16 then .ret
  else .unknown w

/-- Group 0x5 requires n = 0 (R73). -/
def decodeGroup5 (w : Word) : Instr :=
  if nField w = 0#4 then .seReg (xField w) (yField w) else .unknown w

/-- Group 0x8 dispatches on n (R74). -/
def decodeGroup8 (w : Word) : Instr :=
  match (nField w).toNat with
  | 0x0 => .ldReg (xField w) (yField w)
  | 0x1 => .or (xField w) (yField w)
  | 0x2 => .and (xField w) (yField w)
  | 0x3 => .xor (xField w) (yField w)
  | 0x4 => .addReg (xField w) (yField w)
  | 0x5 => .sub (xField w) (yField w)
  | 0x6 => .shr (xField w) (yField w)
  | 0x7 => .subn (xField w) (yField w)
  | 0xE => .shl (xField w) (yField w)
  | _ => .unknown w

/-- Group 0x9 requires n = 0 (R73). -/
def decodeGroup9 (w : Word) : Instr :=
  if nField w = 0#4 then .sneReg (xField w) (yField w) else .unknown w

/-- Group 0xE dispatches on nn (R75). -/
def decodeGroupE (w : Word) : Instr :=
  if nnField w = 0x9E#8 then .skp (xField w)
  else if nnField w = 0xA1#8 then .sknp (xField w)
  else .unknown w

/-- Group 0xF dispatches on nn (R76). -/
def decodeGroupF (w : Word) : Instr :=
  if nnField w = 0x07#8 then .ldVxDt (xField w)
  else if nnField w = 0x0A#8 then .ldVxK (xField w)
  else if nnField w = 0x15#8 then .ldDtVx (xField w)
  else if nnField w = 0x18#8 then .ldStVx (xField w)
  else if nnField w = 0x1E#8 then .addI (xField w)
  else if nnField w = 0x29#8 then .ldF (xField w)
  else if nnField w = 0x33#8 then .ldB (xField w)
  else if nnField w = 0x55#8 then .ldMemVx (xField w)
  else if nnField w = 0x65#8 then .ldVxMem (xField w)
  else .unknown w

/-- The decoder: the top nibble selects the group (R70 to R76). Total: a word outside the tables is `unknown` (R77). -/
def decodeWord (w : Word) : Instr :=
  match (opField w).toNat with
  | 0x0 => decodeGroup0 w
  | 0x1 => .jp (nnnField w)
  | 0x2 => .call (nnnField w)
  | 0x3 => .seImm (xField w) (nnField w)
  | 0x4 => .sneImm (xField w) (nnField w)
  | 0x5 => decodeGroup5 w
  | 0x6 => .ldImm (xField w) (nnField w)
  | 0x7 => .addImm (xField w) (nnField w)
  | 0x8 => decodeGroup8 w
  | 0x9 => decodeGroup9 w
  | 0xA => .ldI (nnnField w)
  | 0xB => .jpV0 (nnnField w)
  | 0xC => .rnd (xField w) (nnField w)
  | 0xD => .drw (xField w) (yField w) (nField w)
  | 0xE => decodeGroupE w
  | _ => decodeGroupF w

/-- The one way bytes fail to decode: an instruction is exactly two bytes (R80). -/
inductive DecodeError where
  /-- fewer than two bytes are left -/
  | truncated
  deriving DecidableEq, Repr

/-- The word of two consecutive bytes, big-endian: the first byte is bits 15..8 (R51, R67). -/
def wordOfBytes (hi lo : Byte) : Word := hi ++ lo

/-- The decoder on bytes in memory order: the instruction and the bytes after it. -/
def decode : List Byte → Except DecodeError (Instr × List Byte)
  | hi :: lo :: rest => .ok (decodeWord (wordOfBytes hi lo), rest)
  | _ => .error .truncated

/-- The word of an instruction, from the encoding tables of R71 to R76. -/
def encode : Instr → Word
  | .cls => 0x00E0#16
  | .ret => 0x00EE#16
  | .jp nnn => 0x1#4 ++ nnn
  | .call nnn => 0x2#4 ++ nnn
  | .seImm x nn => 0x3#4 ++ x ++ nn
  | .sneImm x nn => 0x4#4 ++ x ++ nn
  | .seReg x y => 0x5#4 ++ x ++ y ++ 0x0#4
  | .ldImm x nn => 0x6#4 ++ x ++ nn
  | .addImm x nn => 0x7#4 ++ x ++ nn
  | .ldReg x y => 0x8#4 ++ x ++ y ++ 0x0#4
  | .or x y => 0x8#4 ++ x ++ y ++ 0x1#4
  | .and x y => 0x8#4 ++ x ++ y ++ 0x2#4
  | .xor x y => 0x8#4 ++ x ++ y ++ 0x3#4
  | .addReg x y => 0x8#4 ++ x ++ y ++ 0x4#4
  | .sub x y => 0x8#4 ++ x ++ y ++ 0x5#4
  | .shr x y => 0x8#4 ++ x ++ y ++ 0x6#4
  | .subn x y => 0x8#4 ++ x ++ y ++ 0x7#4
  | .shl x y => 0x8#4 ++ x ++ y ++ 0xE#4
  | .sneReg x y => 0x9#4 ++ x ++ y ++ 0x0#4
  | .ldI nnn => 0xA#4 ++ nnn
  | .jpV0 nnn => 0xB#4 ++ nnn
  | .rnd x nn => 0xC#4 ++ x ++ nn
  | .drw x y n => 0xD#4 ++ x ++ y ++ n
  | .skp x => 0xE#4 ++ x ++ 0x9E#8
  | .sknp x => 0xE#4 ++ x ++ 0xA1#8
  | .ldVxDt x => 0xF#4 ++ x ++ 0x07#8
  | .ldVxK x => 0xF#4 ++ x ++ 0x0A#8
  | .ldDtVx x => 0xF#4 ++ x ++ 0x15#8
  | .ldStVx x => 0xF#4 ++ x ++ 0x18#8
  | .addI x => 0xF#4 ++ x ++ 0x1E#8
  | .ldF x => 0xF#4 ++ x ++ 0x29#8
  | .ldB x => 0xF#4 ++ x ++ 0x33#8
  | .ldMemVx x => 0xF#4 ++ x ++ 0x55#8
  | .ldVxMem x => 0xF#4 ++ x ++ 0x65#8
  | .unknown w => w

/-- The two bytes of a word as memory holds them, at ascending addresses (R51). -/
def bytesOfWord (w : Word) : List Byte := [w.extractLsb' 8 8, w.extractLsb' 0 8]

/-- The mnemonic of an instruction, as spec/opcode_table.json and R86 spell it. -/
def Instr.mnemonic : Instr → String
  | .cls => "CLS"
  | .ret => "RET"
  | .jp _ => "JP"
  | .call _ => "CALL"
  | .seImm _ _ => "SE_imm"
  | .sneImm _ _ => "SNE_imm"
  | .seReg _ _ => "SE_reg"
  | .ldImm _ _ => "LD_imm"
  | .addImm _ _ => "ADD_imm"
  | .ldReg _ _ => "LD_reg"
  | .or _ _ => "OR"
  | .and _ _ => "AND"
  | .xor _ _ => "XOR"
  | .addReg _ _ => "ADD_reg"
  | .sub _ _ => "SUB"
  | .shr _ _ => "SHR"
  | .subn _ _ => "SUBN"
  | .shl _ _ => "SHL"
  | .sneReg _ _ => "SNE_reg"
  | .ldI _ => "LD_I"
  | .jpV0 _ => "JP_V0"
  | .rnd _ _ => "RND"
  | .drw _ _ _ => "DRW"
  | .skp _ => "SKP"
  | .sknp _ => "SKNP"
  | .ldVxDt _ => "LD_Vx_DT"
  | .ldVxK _ => "LD_Vx_K"
  | .ldDtVx _ => "LD_DT_Vx"
  | .ldStVx _ => "LD_ST_Vx"
  | .addI _ => "ADD_I"
  | .ldF _ => "LD_F"
  | .ldB _ => "LD_B"
  | .ldMemVx _ => "LD_MEM_Vx"
  | .ldVxMem _ => "LD_Vx_MEM"
  | .unknown _ => "UNKNOWN"

/-- One row of the match/mask table (R86). -/
structure OpcodeRow where
  mnemonic : String
  pattern : Word
  mask : Word
  deriving DecidableEq, Repr

/-- The rows of R86 whose mask fixes the top nibble only, and the two of group 0x0. -/
def wideRows : List OpcodeRow :=
  [⟨"CLS", 0x00E0, 0xFFFF⟩, ⟨"RET", 0x00EE, 0xFFFF⟩, ⟨"JP", 0x1000, 0xF000⟩, ⟨"CALL", 0x2000, 0xF000⟩,
   ⟨"SE_imm", 0x3000, 0xF000⟩, ⟨"SNE_imm", 0x4000, 0xF000⟩, ⟨"LD_imm", 0x6000, 0xF000⟩, ⟨"ADD_imm", 0x7000, 0xF000⟩,
   ⟨"LD_I", 0xA000, 0xF000⟩, ⟨"JP_V0", 0xB000, 0xF000⟩, ⟨"RND", 0xC000, 0xF000⟩, ⟨"DRW", 0xD000, 0xF000⟩]

/-- The rows of R86 whose mask is 0xF00F. -/
def registerRows : List OpcodeRow :=
  [⟨"SE_reg", 0x5000, 0xF00F⟩, ⟨"LD_reg", 0x8000, 0xF00F⟩, ⟨"OR", 0x8001, 0xF00F⟩, ⟨"AND", 0x8002, 0xF00F⟩,
   ⟨"XOR", 0x8003, 0xF00F⟩, ⟨"ADD_reg", 0x8004, 0xF00F⟩, ⟨"SUB", 0x8005, 0xF00F⟩, ⟨"SHR", 0x8006, 0xF00F⟩,
   ⟨"SUBN", 0x8007, 0xF00F⟩, ⟨"SHL", 0x800E, 0xF00F⟩, ⟨"SNE_reg", 0x9000, 0xF00F⟩]

/-- The rows of R86 whose mask is 0xF0FF. -/
def selectorRows : List OpcodeRow :=
  [⟨"SKP", 0xE09E, 0xF0FF⟩, ⟨"SKNP", 0xE0A1, 0xF0FF⟩, ⟨"LD_Vx_DT", 0xF007, 0xF0FF⟩, ⟨"LD_Vx_K", 0xF00A, 0xF0FF⟩,
   ⟨"LD_DT_Vx", 0xF015, 0xF0FF⟩, ⟨"LD_ST_Vx", 0xF018, 0xF0FF⟩, ⟨"ADD_I", 0xF01E, 0xF0FF⟩, ⟨"LD_F", 0xF029, 0xF0FF⟩,
   ⟨"LD_B", 0xF033, 0xF0FF⟩, ⟨"LD_MEM_Vx", 0xF055, 0xF0FF⟩, ⟨"LD_Vx_MEM", 0xF065, 0xF0FF⟩]

/-- The 34 rows of R86; UNKNOWN is the fallback when none matches. -/
def opcodeRows : List OpcodeRow := wideRows ++ registerRows ++ selectorRows

/-- A word selects a row when `w & mask = match` (R86). -/
def OpcodeRow.selects (r : OpcodeRow) (w : Word) : Bool := w &&& r.mask == r.pattern

/-- The host's entry to the decoder: an instruction whose bits are `w`, bit 0 the least significant bit of its one word.
Its two bytes are laid out as memory holds them and given to `decode`; an instruction has no bits above 15 (R80). -/
def decodeTableWord (nbits w : Nat) : Option Instr :=
  if nbits ≤ 16 then
    match decode (bytesOfWord (BitVec.ofNat 16 (w % 2 ^ nbits))) with
    | .ok (i, []) => some i
    | _ => none
  else none

end Sys2Proof
end

