-- ==== Sys2Proof/Config.lean ====
section
/-! DEFINITION. The parameters of spec/00_scope.md R5: fixed sizes, the kinds of the policy parameters, and the OPEN
parameters and host draws as opaque constants (free values: nothing here can be evaluated, so a theorem holds for every value). -/

namespace Sys2Proof

/-- `SHIFT_SOURCE`: the register a shift reads, V[x] or V[y] (R117, D10). -/
inductive ShiftSource where
  | x
  | y
  deriving DecidableEq, Repr

/-- `ARITH_VF_ORDER`: which write to VF comes last when ADD, SUB or SUBN has x = F (R110, D11). -/
inductive ArithVfOrder where
  | flagLast
  | resultLast
  deriving DecidableEq, Repr, Inhabited

/-- `UNKNOWN_POLICY`: what a cycle does with an UNKNOWN word (R135, R136, D30). -/
inductive UnknownPolicy where
  | noop
  | refuse
  deriving DecidableEq, Repr

namespace Config

/-- `MEM_SIZE` (R5, R45). -/
def memSize : Nat := 4096

/-- `PROG_BASE` (R5, R48, R50). -/
def progBase : Nat := 512

/-- `ROM_SIZE` = 4096 − 512 − 96 (R5, R48). -/
def romSize : Nat := 3488

/-- `SCREEN_W` (R5, R35, D5). -/
def screenW : Nat := 64

/-- `SCREEN_H` (R5, R35, D5). -/
def screenH : Nat := 32

/-- `TIMER_TICK_NS` less one. OPEN (R5, R31, N7): only T > 0 is known. Free value, log 5. -/
opaque timerTickPred : Nat

/-- `TIMER_TICK_NS`, written T: a positive integer (R5). -/
def timerTickNs : Nat := timerTickPred + 1

/-- `TICK_DURATION_NS` less one. OPEN (R5, R156): only D > 0 is known. Free value, log 6. -/
opaque tickDurationPred : Nat

/-- `TICK_DURATION_NS`, written D: a positive integer (R5). -/
def tickDurationNs : Nat := tickDurationPred + 1

/-- `CONFIG_HZ`: configured cycles per second, 0 selects uncapped mode (R5, R42, R155). Free value, log 6. -/
opaque configHz : Nat

/-- `ARITH_VF_ORDER`. OPEN (R5, R110). Free value, log 7. -/
opaque arithVfOrder : ArithVfOrder

/-- The host's key state at the n-th draw: bit k is 1 when key k is held at that moment (R60, R165, R166). Free value, log 11. -/
opaque keysHeld : Nat → BitVec 16

/-- The host's choice among the held keys at the n-th draw (R166, D20). Free value, log 11. -/
opaque keyChoice : Nat → Nat

/-- The random source's byte at the n-th draw (R164, R167, D39). Free value, log 12. -/
opaque randomByte : Nat → Byte

/-- The scheduler delta of an uncapped cycle, at the n-th draw (R151, R158, D36). Free value, log 13. -/
opaque tickDelta : Nat → Nat

end Config

end Sys2Proof
end

