-- ==== Sys2Proof/Machine/Policy.lean ====
section
/-! DEFINITION. The parameters of spec/00_scope.md R5 that have a default, at their default, and the font (R37). -/

namespace Sys2Proof.Machine

/-- `SHIFT_SOURCE`, default x (R117, D10; log 8). -/
def Policy.shiftSource : ShiftSource := .x

/-- `STACK_DEPTH`, default unbounded (R30, D17; log 9). -/
def Policy.stackDepth : Option Nat := none

/-- `UNKNOWN_POLICY`, default noop (R135, D30; log 10). -/
def Policy.unknownPolicy : UnknownPolicy := .noop

/-- `GLYPH_BYTES` (R5, R37, D6). -/
def Policy.glyphBytes : Nat := 5

/-- Glyphs 0 to 7 (R37). -/
def Policy.fontLow : List Byte :=
  [0xF0, 0x90, 0x90, 0x90, 0xF0] ++ [0x20, 0x60, 0x20, 0x20, 0x70] ++
  [0xF0, 0x10, 0xF0, 0x80, 0xF0] ++ [0xF0, 0x10, 0xF0, 0x10, 0xF0] ++
  [0x90, 0x90, 0xF0, 0x10, 0x10] ++ [0xF0, 0x80, 0xF0, 0x10, 0xF0] ++
  [0xF0, 0x80, 0xF0, 0x90, 0xF0] ++ [0xF0, 0x10, 0x20, 0x40, 0x40]

/-- Glyphs 8 to F (R37). -/
def Policy.fontHigh : List Byte :=
  [0xF0, 0x90, 0xF0, 0x90, 0xF0] ++ [0xF0, 0x90, 0xF0, 0x10, 0xF0] ++
  [0xF0, 0x90, 0xF0, 0x90, 0x90] ++ [0xE0, 0x90, 0xE0, 0x90, 0xE0] ++
  [0xF0, 0x80, 0x80, 0x80, 0xF0] ++ [0xE0, 0x90, 0x90, 0x90, 0xE0] ++
  [0xF0, 0x80, 0xF0, 0x80, 0xF0] ++ [0xF0, 0x80, 0xF0, 0x80, 0x80]

/-- `FONT`: 16 glyphs of 5 bytes, from address `FONT_BASE` = 0 (R37, D6). -/
def Policy.font : List Byte := Policy.fontLow ++ Policy.fontHigh

end Sys2Proof.Machine
end

