-- ==== Sys2Proof/Machine/State.lean ====
section
/-! DEFINITION. The state of the block (spec/10_state.md), the reasons a step can stop, and the state after reset (R44). -/

namespace Sys2Proof.Machine

/-- Why a cycle faulted (R138). -/
inductive FaultCause where
  | stackUnderflow
  | stackOverflow
  | fetchOutOfRange
  | memoryOutOfRange
  | iOverflow
  | keyOutOfRange
  deriving DecidableEq, Repr

/-- What the fault register holds once set (R40). -/
structure FaultRecord where
  cause : FaultCause
  /-- the address of the faulting instruction -/
  pc : Word
  /-- the instruction word, none for a fetch fault -/
  word : Option Word
  /-- the offending address, key value or low bits of the sum, else 0 -/
  info : Word
  deriving DecidableEq, Repr

/-- The output event Diagnostic(UnknownWord, pc, word) (R135). -/
structure Diagnostic where
  pc : Word
  word : Word
  deriving DecidableEq, Repr

/-- Main memory as a list of cells in canonical form (`Memory.wf`): rising addresses, no cell equal to what an unlisted
address reads as. -/
abbrev Memory := List Host.Cell

/-- The framebuffer: row 0 is the top row, and bit px of a row is the pixel of column px, one bit a pixel (R35, R92). -/
abbrev Framebuffer := Vector (BitVec Config.screenW) Config.screenH

/-- The machine frame (R14) and the rest of the block's state (10_state.md sections 1 to 11). -/
structure State where
  /-- V0..VF (R20) -/
  v : Vector Byte 16
  /-- the index register I (R27) -/
  i : Word
  /-- the program counter (R23) -/
  pc : Word
  /-- the call stack, oldest entry first (R29) -/
  stack : List Word
  /-- the delay timer in nanoseconds (R31) -/
  dtNs : Nat
  /-- the sound timer in nanoseconds (R31) -/
  stNs : Nat
  /-- main memory (R45) -/
  mem : Memory
  /-- the framebuffer (R35) -/
  fb : Framebuffer
  /-- the Audio flag (R36) -/
  playing : Bool
  /-- the scheduler's accumulator in nanoseconds (R41) -/
  accNs : Nat
  /-- the fault register (R40) -/
  fault : Option FaultRecord
  /-- MODEL's own: how many host answers have been drawn, the index of the next one (log 11) -/
  draws : Nat
  /-- MODEL's own: the output events emitted so far, newest first (R135, log 15) -/
  diagnostics : List Diagnostic
  deriving DecidableEq, Repr

/-- Why a step stops. -/
inductive Fault where
  /-- Raised by `step` and `cycle` when the fault register is already set: a faulted core has no further step (R12, R81,
  R139). Safe: nothing follows from a state the spec gives no step. -/
  | coreHalted (r : FaultRecord)
  deriving DecidableEq, Repr

/-- Why a step is refused. -/
inductive Refusal where
  /-- An instruction with no meaning yet, raised by a refused arm of `exec` only. Safe. -/
  | notModelled (mnemonic : String)
  /-- An UNKNOWN word under `UNKNOWN_POLICY = refuse` (R136), raised by `unknownUnder`. Safe: the spec says the cycle then
  has no meaning. The model's policy is the default, `noop`, so no step of this machine answers it (log 10). -/
  | unknownWord (w : Word)
  deriving DecidableEq, Repr

/-- The state after reset (R44, R179, R180) under `RESET_FILL = zero`, with no ROM bytes placed (logs 3, 4). Memory lists
nothing: the font is what unlisted low addresses read as (`Memory.unlisted`). -/
def State.reset : State where
  v := Vector.replicate 16 0#8
  i := 0#16
  pc := 512#16
  stack := []
  dtNs := 0
  stNs := 0
  mem := []
  fb := Vector.replicate Config.screenH 0
  playing := false
  accNs := 0
  fault := none
  draws := 0
  diagnostics := []

end Sys2Proof.Machine
end

