-- ==== Sys2Proof/Machine/Memory.lean ====
section
/-! DEFINITION. Main memory: the one-byte read and write of spec/20_memory.md R47 on the canonical list, and the range check
an instruction makes before any access. -/

namespace Sys2Proof.Machine

/-- What an address reads as when memory lists nothing there: its reset contents, the font byte at 0x000..0x04F and 0
elsewhere (R37, R48, R178; 0 is `RESET_FILL = zero`, R180, log 3). -/
def Memory.unlisted (a : Nat) : Byte :=
  if a < 80 then Policy.font.getD a 0#8 else 0#8

/-- The byte at address `a` (R47, R54). -/
def Memory.read : Memory → Nat → Byte
  | [], a => Memory.unlisted a
  | (k, b) :: rest, a => if k = a then b else Memory.read rest a

/-- Puts a cell into its place in the rising list. -/
def Memory.insertCell (a : Nat) (b : Byte) : Memory → Memory
  | [] => [(a, b)]
  | (k, c) :: rest =>
    if a < k then (a, b) :: (k, c) :: rest
    else if a = k then (a, b) :: rest
    else (k, c) :: Memory.insertCell a b rest

/-- Takes the cell of an address out of the list. -/
def Memory.eraseCell (a : Nat) (m : Memory) : Memory := m.filter fun c => !(c.1 == a)

/-- Stores one byte (R47, R54): exactly one cell changes. There is no cell at 4096 or more, and every instruction checks its
addresses first (`rangeFault`), so the last branch is never taken by one. -/
def Memory.write (m : Memory) (a : Nat) (b : Byte) : Memory :=
  if a < Config.memSize then
    if b = Memory.unlisted a then Memory.eraseCell a m else Memory.insertCell a b m
  else m

/-- One-byte writes at ascending addresses (R52). -/
def Memory.writeBytes (m : Memory) (a : Nat) : List Byte → Memory
  | [] => m
  | b :: bs => Memory.writeBytes (m.write a b) (a + 1) bs

/-- The `n` bytes from address `a` on, one-byte reads at ascending addresses (R52). -/
def Memory.readBytes (m : Memory) (a n : Nat) : List Byte :=
  (List.range n).map fun k => m.read (a + k)

/-- The canonical form: strictly rising addresses that exist, and no cell equal to its unlisted value. -/
abbrev Memory.wf (m : Memory) : Prop :=
  m.Pairwise (fun c d => c.1 < d.1) ∧ ∀ c ∈ m, c.1 < Config.memSize ∧ c.2 ≠ Memory.unlisted c.1

/-- The check before the accesses `a .. a+n-1`: none when all exist, else the lowest address of them at 4096 or above, the
fault's info (R47). The addresses are exact sums (R133). -/
def rangeFault (a n : Nat) : Option Word :=
  if n ≠ 0 ∧ Config.memSize < a + n then some (BitVec.ofNat 16 (max a Config.memSize)) else none

end Sys2Proof.Machine
end

