-- ==== Sys2Proof/Machine/Ops.lean ====
section
/-! DEFINITION. The named updates of State, the register file, the PC advance, raising a fault, the fetch, host draws and the
timer primitives. -/

namespace Sys2Proof.Machine

/-- The outcome of executing one instruction, and of one step. -/
abbrev Result := Host.Outcome State Fault Refusal

/-! ## Updates, one per field -/

def State.setV (s : State) (a : Vector Byte 16) : State := { s with v := a }
def State.setI (s : State) (a : Word) : State := { s with i := a }
def State.setPc (s : State) (a : Word) : State := { s with pc := a }
def State.setStack (s : State) (a : List Word) : State := { s with stack := a }
def State.setDt (s : State) (a : Nat) : State := { s with dtNs := a }
def State.setSt (s : State) (a : Nat) : State := { s with stNs := a }
def State.setMem (s : State) (a : Memory) : State := { s with mem := a }
def State.setFb (s : State) (a : Framebuffer) : State := { s with fb := a }
def State.setPlaying (s : State) (a : Bool) : State := { s with playing := a }
def State.setAcc (s : State) (a : Nat) : State := { s with accNs := a }
def State.setFault (s : State) (a : Option FaultRecord) : State := { s with fault := a }
def State.setDraws (s : State) (a : Nat) : State := { s with draws := a }
def State.setDiagnostics (s : State) (a : List Diagnostic) : State := { s with diagnostics := a }

/-! ## Registers (R20): none is hard-wired, VF is `reg vf` -/

/-- The number of VF, the flag register (R21). -/
def vf : RegIdx := 15#4

/-- V[x]. -/
def State.reg (s : State) (x : RegIdx) : Byte := s.v[x.toNat]'x.isLt

/-- `V[x] <- a`. -/
def State.setReg (s : State) (x : RegIdx) (a : Byte) : State := s.setV (s.v.set x.toNat a x.isLt)

/-! ## Program counter (R24, R82) -/

/-- `pc <- PC + 2`, the default advance. -/
def State.advance (s : State) : State := s.setPc (s.pc + 2#16)

/-- `pc <- PC + 4` if the condition holds, else `pc <- PC + 2` (R102). -/
def State.skipIf (s : State) (c : Bool) : State := s.setPc (s.pc + if c then 4#16 else 2#16)

/-! ## Faults (R137 to R140) -/

/-- The numeric code of a cause (R138). -/
def FaultCause.code : FaultCause → Nat
  | .stackUnderflow => 1
  | .stackOverflow => 2
  | .fetchOutOfRange => 3
  | .memoryOutOfRange => 4
  | .iOverflow => 5
  | .keyOutOfRange => 6

/-- `raise F(info)`: the fault register takes the record, and nothing else changes (R137, R140). The core is then halted: no
handler, no vector, no return (R143, R144), so there is no operation that undoes it. A next state, log 2. -/
def raiseFault (c : FaultCause) (w : Option Word) (info : Word) (s : State) : Result :=
  .next (s.setFault (some { cause := c, pc := s.pc, word := w, info := info }))

/-- `raise` inside the execution of `i`, whose word the record keeps (log 20). -/
def raiseIn (i : Instr) (c : FaultCause) (info : Word) (s : State) : Result :=
  raiseFault c (some (encode i)) info s

/-! ## Fetch (R67) -/

/-- The word at PC, big-endian, when both bytes exist. -/
def fetchWord (s : State) : Option Word :=
  if s.pc.toNat + 1 < Config.memSize then
    some (wordOfBytes (s.mem.read s.pc.toNat) (s.mem.read (s.pc.toNat + 1)))
  else none

/-- The fetch past byte 4095: `FetchOutOfRange` with info max(PC, 4096) and no word. -/
def raiseFetch (s : State) : Result :=
  raiseFault .fetchOutOfRange none (BitVec.ofNat 16 (max s.pc.toNat Config.memSize)) s

/-! ## Host draws (logs 11 to 13) -/

/-- Moves on to the next host answer. -/
def State.nextDraw (s : State) : State := s.setDraws (s.draws + 1)

/-! ## Timer primitives (R32) and countdown (R150) -/

/-- `set_scaled`: the nanoseconds of `v` ticks. -/
def setScaled (v : Byte) : Nat := v.toNat * Config.timerTickNs

/-- The whole ticks in `ns` nanoseconds, `floor(ns / T)`. The case 0 is apart so that a stopped timer evaluates without T. -/
def scaledTicks : Nat → Nat
  | 0 => 0
  | ns + 1 => (ns + 1) / Config.timerTickNs

/-- `get_scaled`: the 8-bit view. Within the bound of R33 the tick count fits in 8 bits (log 14). -/
def getScaled (ns : Nat) : Byte := BitVec.ofNat 8 (scaledTicks ns)

/-- `countdown`: `max(0, ns - d)`. The case 0 is apart so that a stopped timer evaluates without d. -/
def countdownNs : Nat → Nat → Nat
  | 0, _ => 0
  | ns + 1, d => (ns + 1) - d

/-- TimerCountdown(d) (R150): both timers, then the sound flag is cleared if the sound timer's scaled value is 0 (R153). -/
def timerCountdown (d : Nat) (s : State) : State :=
  let t := (s.setDt (countdownNs s.dtNs d)).setSt (countdownNs s.stNs d)
  t.setPlaying (t.playing && !(scaledTicks t.stNs == 0))

end Sys2Proof.Machine
end

