-- ==== Sys2Proof/Machine/Flags.lean ====
section
/-! DEFINITION. The outcomes written to VF (spec/10_state.md R38) and the writeback of a result and a flag (spec/43_alu.md R110). -/

namespace Sys2Proof.Machine

/-- `bool01` (R9). -/
def bool01 (c : Bool) : Byte := if c then 1#8 else 0#8

/-- The carry of ADD Vx,Vy: the exact sum exceeds 255 (R109, R116). -/
def carryOut (a b : Byte) : Bool := decide (255 < a.toNat + b.toNat)

/-- No borrow in a − b: the exact difference is not negative (R111, R116). -/
def noBorrow (a b : Byte) : Bool := decide (b.toNat ≤ a.toNat)

/-- The bit SHR ejects: bit 0 (R113). -/
def ejectedRight (a : Byte) : Byte := a &&& 1#8

/-- The bit SHL ejects: bit 7 (R114). -/
def ejectedLeft (a : Byte) : Byte := (a >>> 7) &&& 1#8

/-- Writeback(x, result, flag) of ADD Vx,Vy, SUB and SUBN under each `ARITH_VF_ORDER` (R110). -/
def writeback (order : ArithVfOrder) (x : RegIdx) (result : Byte) (flag : Bool) (s : State) : State :=
  if x ≠ vf then (s.setReg x result).setReg vf (bool01 flag)
  else
    s.setReg vf
      (match order with
      | .flagLast => bool01 flag
      | .resultLast => result)

/-- The two writes of a shift: the ejected bit first, then the result (R113, R114). -/
def shiftWriteback (x : RegIdx) (result flag : Byte) (s : State) : State :=
  (s.setReg vf flag).setReg x result

end Sys2Proof.Machine
end

