-- ==== Sys2Proof/Machine/Operands.lean ====
section
/-! DEFINITION. Operand forms: immediates (R69), the shift's source register (R117), the addresses and register ranges of the
memory instructions (R133), BCD digits (R127) and glyph addresses (R126). -/

namespace Sys2Proof.Machine

/-- `zext_16(nnn)` (R69). -/
def addressOf (nnn : BitVec 12) : Word := nnn.setWidth 16

/-- The source of SHR and SHL under each `SHIFT_SOURCE` (R117). -/
def shiftOperand (src : ShiftSource) (x y : RegIdx) (s : State) : Byte :=
  match src with
  | .x => s.reg x
  | .y => s.reg y

/-- The base address of DRW, LD B, LD [I] and LD Vx,[I]: the value of I, an exact natural (R133). -/
def baseAddress (s : State) : Nat := s.i.toNat

/-- How many registers V0..Vx are (R69, R128). -/
def rangeCount (x : RegIdx) : Nat := x.toNat + 1

/-- V0..Vx in ascending order, the bytes LD [I],Vx stores (R128). -/
def rangeBytes (x : RegIdx) (s : State) : List Byte :=
  (List.range (rangeCount x)).map fun k => s.reg (BitVec.ofNat 4 k)

/-- `V[k] <- b` for the bytes in ascending order from register `k` on (R129). -/
def State.setRegsFrom (s : State) (k : Nat) : List Byte → State
  | [] => s
  | b :: bs => (s.setReg (BitVec.ofNat 4 k) b).setRegsFrom (k + 1) bs

/-- Hundreds, tens and ones digit (R127). -/
def bcdDigits (v : Byte) : List Byte :=
  [BitVec.ofNat 8 (v.toNat / 100), BitVec.ofNat 8 (v.toNat / 10 % 10), BitVec.ofNat 8 (v.toNat % 10)]

/-- `V[x] * GLYPH_BYTES`, not masked; at most 1275 (R126). -/
def glyphAddress (v : Byte) : Word := BitVec.ofNat 16 (v.toNat * Policy.glyphBytes)

end Sys2Proof.Machine
end

