-- ==== Sys2Proof/Machine/Alu.lean ====
section
/-! DEFINITION. Register loads, arithmetic, bitwise, shift and random instructions (spec/43_alu.md R103 to R118). -/

namespace Sys2Proof.Machine

/-- LD Vx, nn (R103). -/
def execLdImm (x : RegIdx) (nn : Byte) (s : State) : Result := .next (s.setReg x nn).advance

/-- ADD Vx, nn (R104): modulo 256, VF is not written. -/
def execAddImm (x : RegIdx) (nn : Byte) (s : State) : Result := .next (s.setReg x (s.reg x + nn)).advance

/-- LD Vx, Vy (R105). -/
def execLdReg (x y : RegIdx) (s : State) : Result := .next (s.setReg x (s.reg y)).advance

/-- OR Vx, Vy (R106): VF is not written. -/
def execOr (x y : RegIdx) (s : State) : Result := .next (s.setReg x (s.reg x ||| s.reg y)).advance

/-- AND Vx, Vy (R107): VF is not written. -/
def execAnd (x y : RegIdx) (s : State) : Result := .next (s.setReg x (s.reg x &&& s.reg y)).advance

/-- XOR Vx, Vy (R108): VF is not written. -/
def execXor (x y : RegIdx) (s : State) : Result := .next (s.setReg x (s.reg x ^^^ s.reg y)).advance

/-- ADD Vx, Vy (R109): VF is the carry. -/
def execAddReg (x y : RegIdx) (s : State) : Result :=
  .next (writeback Config.arithVfOrder x (s.reg x + s.reg y) (carryOut (s.reg x) (s.reg y)) s).advance

/-- SUB Vx, Vy (R111): VF is 1 when no borrow occurred. -/
def execSub (x y : RegIdx) (s : State) : Result :=
  .next (writeback Config.arithVfOrder x (s.reg x - s.reg y) (noBorrow (s.reg x) (s.reg y)) s).advance

/-- SUBN Vx, Vy (R112): Vy − Vx into Vx. -/
def execSubn (x y : RegIdx) (s : State) : Result :=
  .next (writeback Config.arithVfOrder x (s.reg y - s.reg x) (noBorrow (s.reg y) (s.reg x)) s).advance

/-- SHR Vx {, Vy} under each `SHIFT_SOURCE` (R113, R117). -/
def shrUnder (source : ShiftSource) (x y : RegIdx) (s : State) : Result :=
  let src := shiftOperand source x y s
  .next (shiftWriteback x (src >>> 1) (ejectedRight src) s).advance

/-- SHR Vx {, Vy} (R113). -/
def execShr (x y : RegIdx) (s : State) : Result := shrUnder Policy.shiftSource x y s

/-- SHL Vx {, Vy} under each `SHIFT_SOURCE` (R114, R117). -/
def shlUnder (source : ShiftSource) (x y : RegIdx) (s : State) : Result :=
  let src := shiftOperand source x y s
  .next (shiftWriteback x (src <<< 1) (ejectedLeft src) s).advance

/-- SHL Vx {, Vy} (R114). -/
def execShl (x y : RegIdx) (s : State) : Result := shlUnder Policy.shiftSource x y s

/-- `draw_byte()` (R167): the random source's answer to this draw. -/
def drawByte (s : State) : Byte := Config.randomByte s.draws

/-- RND Vx, nn (R115): a byte is drawn even for nn = 0. -/
def execRnd (x : RegIdx) (nn : Byte) (s : State) : Result :=
  .next (s.setReg x (drawByte s &&& nn)).nextDraw.advance

end Sys2Proof.Machine
end

