-- ==== Sys2Proof/Machine/Control.lean ====
section
/-! DEFINITION. Control transfer (spec/41_control_flow.md R93 to R97): RET, JP, CALL, JP V0. -/

namespace Sys2Proof.Machine

/-- `push(v)` appends (R29). -/
def State.push (s : State) (a : Word) : State := s.setStack (s.stack ++ [a])

/-- `pop()`: the last appended value and the stack without it; none on an empty stack (R29). -/
def State.pop? (s : State) : Option (Word × State) :=
  match s.stack.getLast? with
  | none => none
  | some a => some (a, s.setStack s.stack.dropLast)

/-- Whether a stack of this many entries is full under a `STACK_DEPTH`; none is unbounded (R30). -/
def stackFull (depth : Option Nat) (entries : Nat) : Bool :=
  match depth with
  | none => false
  | some n => decide (n ≤ entries)

/-- RET (R93). -/
def execRet (s : State) : Result :=
  match s.pop? with
  | none => raiseIn .ret .stackUnderflow 0#16 s
  | some (a, t) => .next (t.setPc (a + 2#16))

/-- JP nnn (R94). -/
def execJp (nnn : BitVec 12) (s : State) : Result := .next (s.setPc (addressOf nnn))

/-- CALL nnn under each `STACK_DEPTH` (R95, R30). -/
def callUnder (depth : Option Nat) (nnn : BitVec 12) (s : State) : Result :=
  if stackFull depth s.stack.length then raiseIn (.call nnn) .stackOverflow 0#16 s
  else .next ((s.push s.pc).setPc (addressOf nnn))

/-- CALL nnn (R95). -/
def execCall (nnn : BitVec 12) (s : State) : Result := callUnder Policy.stackDepth nnn s

/-- JP V0, nnn (R96): the full sum, not wrapped to 12 bits. -/
def execJpV0 (nnn : BitVec 12) (s : State) : Result :=
  .next (s.setPc (addressOf nnn + (s.reg 0#4).setWidth 16))

end Sys2Proof.Machine
end

