-- ==== Sys2Proof/Machine/Display.lean ====
section
/-! DEFINITION. The framebuffer controller (spec/40_display.md R89 to R92) and its instructions CLS and DRW (R87, R88). -/

namespace Sys2Proof.Machine

/-! ## The controller -/

/-- fb[px][py]; false off the screen. -/
def Framebuffer.pixel (fb : Framebuffer) (px py : Nat) : Bool :=
  if h : py < Config.screenH then fb[py].getLsbD px else false

/-- The controller's clear (R91). -/
def Framebuffer.clear : Framebuffer := Vector.replicate Config.screenH 0

/-- `fb[px][py] <- fb[px][py] ^ 1` for a pixel of the screen. -/
def Framebuffer.toggle (fb : Framebuffer) (px py : Nat) : Framebuffer :=
  if h : py < Config.screenH then fb.set py (fb[py] ^^^ BitVec.twoPow Config.screenW px) else fb

/-- `row[r][7 - c]`: bit 7 is the leftmost pixel (R89). -/
def spriteBit (rows : List Byte) (r c : Nat) : Bool := (rows.getD r 0#8).getLsbD (7 - c)

/-- One turn of the blit's loop, at row r and column c of the sprite: a 1 bit on the screen toggles its pixel and collides if
the pixel was 1; a pixel off the screen is dropped (R89, R90). -/
def blitPixel (cx cy : Nat) (rows : List Byte) (acc : Framebuffer × Bool) (rc : Nat × Nat) : Framebuffer × Bool :=
  let px := cx + rc.2
  let py := cy + rc.1
  if spriteBit rows rc.1 rc.2 && decide (px < Config.screenW) && decide (py < Config.screenH) then
    (acc.1.toggle px py, acc.2 || acc.1.pixel px py)
  else acc

/-- The pairs (r, c) of the blit's loop, for `n` rows (R89). -/
def spritePositions (n : Nat) : List (Nat × Nat) :=
  (List.range n).flatMap fun r => (List.range 8).map fun c => (r, c)

/-- Blit(cx, cy, rows): the new framebuffer and whether a pixel went from 1 to 0 (R89). -/
def blit (cx cy : Nat) (rows : List Byte) (fb : Framebuffer) : Framebuffer × Bool :=
  (spritePositions rows.length).foldl (blitPixel cx cy rows) (fb, false)

/-- The host's snapshot: one entry a pixel, 0 or 1, row by row from the top (R92, R170). It changes nothing. -/
def snapshot (s : State) : List (List Byte) :=
  (List.range Config.screenH).map fun py => (List.range Config.screenW).map fun px => bool01 (s.fb.pixel px py)

/-! ## Instructions -/

/-- CLS (R87). -/
def execCls (s : State) : Result := .next (s.setFb Framebuffer.clear).advance

/-- The effect of DRW once its rows are known to lie in memory: blit, then the collision into VF (R88). -/
def drawSprite (cx cy : Nat) (rows : List Byte) (s : State) : State :=
  let drawn := blit cx cy rows s.fb
  ((s.setFb drawn.1).setReg vf (bool01 drawn.2)).advance

/-- DRW Vx, Vy, n (R88). -/
def execDrw (x y : RegIdx) (n : BitVec 4) (s : State) : Result :=
  match rangeFault (baseAddress s) n.toNat with
  | some a => raiseIn (.drw x y n) .memoryOutOfRange a s
  | none =>
    .next (drawSprite (s.reg x).toNat (s.reg y).toNat (s.mem.readBytes (baseAddress s) n.toNat) s)

end Sys2Proof.Machine
end

