-- ==== Sys2Proof/Machine/Index.lean ====
section
/-! DEFINITION. The index register and the memory instructions (spec/45_index_memory_timer.md R124 to R129, R133). -/

namespace Sys2Proof.Machine

/-- LD I, nnn (R124). -/
def execLdI (nnn : BitVec 12) (s : State) : Result := .next (s.setI (addressOf nnn)).advance

/-- The exact sum I + V[x] (R125). -/
def indexSum (s : State) (x : RegIdx) : Nat := s.i.toNat + (s.reg x).toNat

/-- ADD I, Vx (R125): a sum past 0xFFFF raises IOverflow with its low 16 bits and is not performed (R28); VF is not written. -/
def execAddI (x : RegIdx) (s : State) : Result :=
  if 0xFFFF < indexSum s x then raiseIn (.addI x) .iOverflow (BitVec.ofNat 16 (indexSum s x)) s
  else .next (s.setI (BitVec.ofNat 16 (indexSum s x))).advance

/-- LD F, Vx (R126). -/
def execLdF (x : RegIdx) (s : State) : Result := .next (s.setI (glyphAddress (s.reg x))).advance

/-- LD B, Vx (R127): three digits at I..I+2, I unchanged. -/
def execLdB (x : RegIdx) (s : State) : Result :=
  match rangeFault (baseAddress s) 3 with
  | some a => raiseIn (.ldB x) .memoryOutOfRange a s
  | none => .next (s.setMem (s.mem.writeBytes (baseAddress s) (bcdDigits (s.reg x)))).advance

/-- `I <- a + x + 1`, the post-increment of the register dump and load (R128, R129). -/
def State.bumpIndex (s : State) (x : RegIdx) : State :=
  s.setI (BitVec.ofNat 16 (baseAddress s + rangeCount x))

/-- LD [I], Vx (R128): V0..Vx to I..I+x, then I advances. -/
def execLdMemVx (x : RegIdx) (s : State) : Result :=
  match rangeFault (baseAddress s) (rangeCount x) with
  | some a => raiseIn (.ldMemVx x) .memoryOutOfRange a s
  | none => .next ((s.setMem (s.mem.writeBytes (baseAddress s) (rangeBytes x s))).bumpIndex x).advance

/-- LD Vx, [I] (R129): V0..Vx from I..I+x, then I advances. -/
def execLdVxMem (x : RegIdx) (s : State) : Result :=
  match rangeFault (baseAddress s) (rangeCount x) with
  | some a => raiseIn (.ldVxMem x) .memoryOutOfRange a s
  | none => .next ((s.setRegsFrom 0 (s.mem.readBytes (baseAddress s) (rangeCount x))).bumpIndex x).advance

end Sys2Proof.Machine
end

