-- ==== Sys2Proof/Machine/Input.lean ====
section
/-! DEFINITION. The Input queries (spec/60_exceptions.md R165, R166) and the key instructions (spec/44_input.md R119 to R123). -/

namespace Sys2Proof.Machine

/-- `held(k)`: whether key k is held in the host's key state at this draw (R165). -/
def held (s : State) (k : KeyCode) : Bool := (Config.keysHeld s.draws).getLsbD k.toNat

/-- The sixteen key codes. -/
def allKeys : List KeyCode := (List.range 16).map fun k => BitVec.ofNat 4 k

/-- The keys held at this draw. -/
def heldKeys (s : State) : List KeyCode := allKeys.filter (held s)

/-- `any_held()`: none when no key is held, else one held key, the host's choice among them (R166). -/
def anyHeld (s : State) : Option KeyCode :=
  (heldKeys s)[Config.keyChoice s.draws % (heldKeys s).length]?

/-- The key instructions' range check: V[x] > 15 raises KeyOutOfRange with info = V[x] (R122). -/
def keyOutOfRange (s : State) (x : RegIdx) : Bool := decide (15 < (s.reg x).toNat)

/-- The key code in V[x], in range (R119). -/
def keyOf (s : State) (x : RegIdx) : KeyCode := (s.reg x).setWidth 4

/-- SKP Vx (R119). -/
def execSkp (x : RegIdx) (s : State) : Result :=
  if keyOutOfRange s x then raiseIn (.skp x) .keyOutOfRange ((s.reg x).setWidth 16) s
  else .next (s.skipIf (held s (keyOf s x))).nextDraw

/-- SKNP Vx (R120). -/
def execSknp (x : RegIdx) (s : State) : Result :=
  if keyOutOfRange s x then raiseIn (.sknp x) .keyOutOfRange ((s.reg x).setWidth 16) s
  else .next (s.skipIf (!held s (keyOf s x))).nextDraw

/-- LD Vx, K under each answer of `any_held()`: while no key is held the PC stays, and the same word is fetched again in the
next cycle (R121). -/
def awaitKey (answer : Option KeyCode) (x : RegIdx) (s : State) : Result :=
  .next
    (match answer with
    | none => s.nextDraw
    | some k => (s.setReg x (k.setWidth 8)).advance.nextDraw)

/-- LD Vx, K (R121). -/
def execLdVxK (x : RegIdx) (s : State) : Result := awaitKey (anyHeld s) x s

end Sys2Proof.Machine
end

