-- ==== Sys2Proof/Machine/Skip.lean ====
section
/-! DEFINITION. Comparison skips (spec/42_compare_skip.md R98 to R102). -/

namespace Sys2Proof.Machine

/-- SE Vx, nn (R98). -/
def execSeImm (x : RegIdx) (nn : Byte) (s : State) : Result := .next (s.skipIf (s.reg x == nn))

/-- SNE Vx, nn (R99). -/
def execSneImm (x : RegIdx) (nn : Byte) (s : State) : Result := .next (s.skipIf (!(s.reg x == nn)))

/-- SE Vx, Vy (R100). -/
def execSeReg (x y : RegIdx) (s : State) : Result := .next (s.skipIf (s.reg x == s.reg y))

/-- SNE Vx, Vy (R101). -/
def execSneReg (x y : RegIdx) (s : State) : Result := .next (s.skipIf (!(s.reg x == s.reg y)))

end Sys2Proof.Machine
end

