-- ==== Sys2Proof/Machine/Timers.lean ====
section
/-! DEFINITION. The timer instructions (spec/45_index_memory_timer.md R130 to R132) and the host's audio query. -/

namespace Sys2Proof.Machine

/-- LD Vx, DT (R130). -/
def execLdVxDt (x : RegIdx) (s : State) : Result := .next (s.setReg x (getScaled s.dtNs)).advance

/-- LD DT, Vx (R131). -/
def execLdDtVx (x : RegIdx) (s : State) : Result := .next (s.setDt (setScaled (s.reg x))).advance

/-- LD ST, Vx (R132): also sets `playing`, even for V[x] = 0. -/
def execLdStVx (x : RegIdx) (s : State) : Result :=
  .next ((s.setSt (setScaled (s.reg x))).setPlaying true).advance

/-- The host's query "is a tone currently requested" (R163, R171). It changes nothing. -/
def audioQuery (s : State) : Bool := s.playing

end Sys2Proof.Machine
end

