-- ==== Sys2Proof/Machine/Unknown.lean ====
section
/-! DEFINITION. Unknown words (spec/46_unknown.md R135, R136). -/

namespace Sys2Proof.Machine

/-- Emits Diagnostic(UnknownWord, pc, word), an output event (R135, log 15). -/
def State.emit (s : State) (w : Word) : State :=
  s.setDiagnostics ({ pc := s.pc, word := w } :: s.diagnostics)

/-- An UNKNOWN word under each `UNKNOWN_POLICY` (R135, R136). -/
def unknownUnder (policy : UnknownPolicy) (w : Word) (s : State) : Result :=
  match policy with
  | .noop => .next (s.emit w).advance
  | .refuse => .refused (.unknownWord w)

/-- UNKNOWN (R135): a no-op that advances PC, with a diagnostic. -/
def execUnknown (w : Word) (s : State) : Result := unknownUnder Policy.unknownPolicy w s

end Sys2Proof.Machine
end

