-- ==== Sys2Proof/Machine/Cycle.lean ====
section
/-! DEFINITION. One executed cycle (spec/30_encoding.md R81), the countdown amount of its mode (spec/60_exceptions.md R151),
and the placing of a word where the next fetch reads it. -/

namespace Sys2Proof.Machine

/-- The end of a cycle: the countdown, but not after a fault was raised in it (R81, R140). -/
def endCycle (d : Nat) (t : State) : State :=
  match t.fault with
  | none => timerCountdown d t
  | some _ => t

/-- Execute and then the end of the cycle. -/
def executeThen (d : Nat) (i : Instr) (s : State) : Result :=
  match exec i s with
  | .next t => .next (endCycle d t)
  | .fault r => .fault r
  | .refused r => .refused r

/-- Cycle(d) (R81). A faulted core has no further step (R12, R139). -/
def cycle (d : Nat) (s : State) : Result :=
  match s.fault with
  | some r => .fault (.coreHalted r)
  | none =>
    match fetchWord s with
    | none => raiseFetch s
    | some w => executeThen d (decodeWord w) s

/-- The countdown amount of an executed cycle: D when capped, the iteration's delta when uncapped (R151). -/
def cycleAmount (s : State) : Nat :=
  if Config.configHz = 0 then Config.tickDelta s.draws else Config.tickDurationNs

/-- What the scheduler has done when it fires a cycle: the accumulator is 0 (R154, R155), and in uncapped mode the delta has
been drawn (R158). -/
def beginCycle (s : State) : State :=
  (s.setAcc 0).setDraws (s.draws + if Config.configHz = 0 then 1 else 0)

/-- Stores a word big-endian at the address the next fetch reads (R51, R67). -/
def placeAtFetch (s : State) (w : Word) : State :=
  s.setMem (s.mem.writeBytes s.pc.toNat (bytesOfWord w))

end Sys2Proof.Machine
end

