-- ==== Sys2Proof/Machine/Step.lean ====
section
/-! DEFINITION. The step of the machine: one executed cycle, fired by the scheduler (spec/00_scope.md R12, R15; log 1). -/

namespace Sys2Proof.Machine

/-- One executed cycle: the scheduler fires with the gate open, and Cycle(d) runs with the amount of its mode. -/
def step (s : State) : Host.Outcome State Fault Refusal := cycle (cycleAmount s) (beginCycle s)

/-- `s` with the instruction whose bits are `w` stored where `step` fetches next; bits at `nbits` and above are zero. -/
def State.withFetchWord (s : State) (nbits w : Nat) : State :=
  placeAtFetch s (BitVec.ofNat 16 (w % 2 ^ nbits))

end Sys2Proof.Machine
end

