-- ==== Sys2Proof/Machine/Boot.lean ====
section
/-! DEFINITION. Construction of a machine from a ROM (spec/70_reset_and_hazards.md R176 to R180). -/

namespace Sys2Proof.Machine

/-- `RESET_FILL`: the values construction leaves in the cells the source gives no reset value for (R44, R180). -/
structure ResetFill where
  v : Vector Byte 16
  i : Word
  dtNs : Nat
  stNs : Nat
  fb : Framebuffer
  mem : Memory
  deriving DecidableEq, Repr

/-- `RESET_FILL = zero`. -/
def ResetFill.zero : ResetFill where
  v := Vector.replicate 16 0#8
  i := 0#16
  dtNs := 0
  stNs := 0
  fb := Vector.replicate Config.screenH 0
  mem := []

/-- What `RESET_FILL = arbitrary` may draw: timers within 0..255·T (R33, R180), and memory in the model's canonical form. -/
def ResetFill.Valid (f : ResetFill) : Prop :=
  f.dtNs ≤ 255 * Config.timerTickNs ∧ f.stNs ≤ 255 * Config.timerTickNs ∧ f.mem.wf

/-- Why construction fails (R176). No machine exists then, so none of these is a fault of the core. -/
inductive ConstructError where
  | romEmpty
  | romTooBig
  | romUnreadable
  deriving DecidableEq, Repr

/-- Memory at reset: the fill, the font at 0, the ROM at 512 (R178). -/
def bootMemory (f : ResetFill) (rom : List Byte) : Memory :=
  (f.mem.writeBytes 0 Policy.font).writeBytes Config.progBase rom

/-- The state of a new machine (R44, R177 to R180). -/
def bootState (f : ResetFill) (rom : List Byte) : State :=
  { State.reset with v := f.v, i := f.i, dtNs := f.dtNs, stNs := f.stNs, fb := f.fb, mem := bootMemory f rom }

/-- Construction from a ROM source; none is a source that cannot be read (R176). -/
def construct (f : ResetFill) (rom : Option (List Byte)) : Except ConstructError State :=
  match rom with
  | none => .error .romUnreadable
  | some bytes =>
    if bytes.length = 0 then .error .romEmpty
    else if Config.romSize < bytes.length then .error .romTooBig
    else .ok (bootState f bytes)

end Sys2Proof.Machine
end

