-- ==== Sys2Proof/Machine/Scheduler.lean ====
section
/-! DEFINITION. The tick scheduler (spec/60_exceptions.md R154 to R160): one iteration per host delta and gate. -/

namespace Sys2Proof.Machine

/-- A tick that crossed the threshold: the accumulator is 0, and a cycle runs if the gate is open and no fault is recorded
(R154, R155, R139, R160). -/
def fireTick (d : Nat) (gate : Bool) (s : State) : Result :=
  if gate && s.fault.isNone then cycle d (s.setAcc 0) else .next (s.setAcc 0)

/-- The capped iteration with tick duration `d` (R154): strictly more than `d` fires, the surplus is discarded (R157). -/
def tickCapped (d delta : Nat) (gate : Bool) (s : State) : Result :=
  if d < s.accNs + delta then fireTick d gate s else .next (s.setAcc (s.accNs + delta))

/-- The uncapped iteration (R155): every iteration fires, and the delta is the countdown amount (R151). -/
def tickUncapped (delta : Nat) (gate : Bool) (s : State) : Result := fireTick delta gate s

/-- Tick(delta, gate) of this machine's configuration. -/
def tick (delta : Nat) (gate : Bool) (s : State) : Result :=
  if Config.configHz = 0 then tickUncapped delta gate s else tickCapped Config.tickDurationNs delta gate s

/-- What the host supplies for one scheduler iteration (R172). -/
structure TickInput where
  delta : Nat
  gate : Bool
  deriving DecidableEq, Repr

/-- The iterations the host supplies until it stops the machine: a stop falls between cycles, and the state is that after the
last completed one (R173, R195). -/
def runTicks : List TickInput → State → Result
  | [], s => .next s
  | t :: rest, s =>
    match tick t.delta t.gate s with
    | .next s' => runTicks rest s'
    | .fault r => .fault r
    | .refused r => .refused r

end Sys2Proof.Machine
end

