-- ==== Sys2Proof/Safety.lean ====
section
/-! DEFINITION. The terms claims are stated in: the parts of the state a step may change, when an instruction can be
executing, the ends of a run (spec/70_reset_and_hazards.md R193), and the invariant of the machine. -/

namespace Sys2Proof.Machine

/-- The parts of State, for saying what stays as it was. -/
inductive Part where
  | regs
  | index
  | pc
  | stack
  | delay
  | sound
  | memory
  | screen
  | audio
  | accumulator
  | faultReg
  | draws
  | diagnostics
  deriving DecidableEq, Repr

/-- A part has the same contents in both states: every register, every byte of memory, every pixel. -/
def Part.Same (p : Part) (s t : State) : Prop :=
  match p with
  | .regs => ∀ r, t.reg r = s.reg r
  | .index => t.i = s.i
  | .pc => t.pc = s.pc
  | .stack => t.stack = s.stack
  | .delay => t.dtNs = s.dtNs
  | .sound => t.stNs = s.stNs
  | .memory => ∀ a, t.mem.read a = s.mem.read a
  | .screen => ∀ px py, t.fb.pixel px py = s.fb.pixel px py
  | .audio => t.playing = s.playing
  | .accumulator => t.accNs = s.accNs
  | .faultReg => t.fault = s.fault
  | .draws => t.draws = s.draws
  | .diagnostics => t.diagnostics = s.diagnostics

/-- Every part outside the list is the same: the frame of an instruction. -/
def OnlyChanges (parts : List Part) (s t : State) : Prop := ∀ p, p ∉ parts → p.Same s t

/-- Both bytes of the word at PC exist, so an instruction can be executing at PC (R67). -/
def State.Fetchable (s : State) : Prop := s.pc.toNat + 1 < Config.memSize

/-- The instructions the fault table of R138 names under the unbounded `STACK_DEPTH` of this machine (log 9): DRW only with
n > 0, and no CALL. -/
def MayFault (i : Instr) : Prop :=
  i = .ret ∨ (∃ x y n, i = .drw x y n ∧ n ≠ 0#4) ∨
  ∃ x, i = .ldB x ∨ i = .ldMemVx x ∨ i = .ldVxMem x ∨ i = .addI x ∨ i = .skp x ∨ i = .sknp x

/-- The instruction the next cycle executes, when its fetch succeeds (R67, R70). -/
def nextInstr (s : State) : Option Instr := (fetchWord s).map decodeWord

/-- The normal end of a run: the next fetch, at address A, gives 0x1000 | A, a jump to itself, and no fault is recorded (R193). -/
def NormalEnd (s : State) : Prop := s.fault = none ∧ fetchWord s = some (0x1000#16 ||| s.pc)

/-- A faulted end (R193): the fault register is set. -/
def FaultedEnd (s : State) : Prop := s.fault ≠ none

/-- What holds between cycles in every state the machine reaches. -/
structure State.Inv (s : State) : Prop where
  /-- memory is in canonical form -/
  memWf : s.mem.wf
  /-- R26 -/
  pcBound : s.pc.toNat ≤ 0x10FE
  /-- R93: a pushed value is the address of a word that was fetched -/
  stackBound : ∀ a ∈ s.stack, a.toNat ≤ 4094
  /-- R33 -/
  dtBound : s.dtNs ≤ 255 * Config.timerTickNs
  /-- R33 -/
  stBound : s.stNs ≤ 255 * Config.timerTickNs
  /-- R153: the flag is cleared when the sound timer's scaled value is 0 -/
  silent : s.playing = true → scaledTicks s.stNs ≠ 0
  /-- R154: an accumulator past D would have fired and been reset -/
  accBound : s.accNs ≤ Config.tickDurationNs
  /-- R40, R140: the recorded address is the PC, which stays there -/
  faultPc : ∀ r, s.fault = some r → r.pc = s.pc

end Sys2Proof.Machine
end

