-- ==== Sys2Proof/Certificates/Slice0/Obligations.lean ====
section
/-! DEFINITION. The statements for the provers. Each docstring names the rule of spec/ it formalises. A premise
`s.Fetchable` says that both bytes of the word at PC exist, the condition under which an instruction executes at PC (R67). -/

open Sys2Proof Sys2Proof.Machine

/-! ## Encoding and decoding -/

/-- R79, the source's two decode examples, and words of vectors E1 to E20 and section 3 (spec/95_test_vectors.md), at least one
a group: each decodes to the instruction it stands for. -/
def Obligations.DecodeReadsSpecWords : Prop :=
  decodeWord 0x3123 = .seImm 1 0x23 ∧ decodeWord 0xD123 = .drw 1 2 3 ∧
  decodeWord 0x00E0 = .cls ∧ decodeWord 0x00EE = .ret ∧ decodeWord 0x00E1 = .unknown 0x00E1 ∧
  decodeWord 0x1ABC = .jp 0xABC ∧ decodeWord 0x207B = .call 123 ∧ decodeWord 0x4123 = .sneImm 1 0x23 ∧
  decodeWord 0x5120 = .seReg 1 2 ∧ decodeWord 0x5121 = .unknown 0x5121 ∧ decodeWord 0x60FE = .ldImm 0 0xFE ∧
  decodeWord 0x71FF = .addImm 1 0xFF ∧ decodeWord 0x8ABE = .shl 0xA 0xB ∧ decodeWord 0x8AB8 = .unknown 0x8AB8 ∧
  decodeWord 0x9120 = .sneReg 1 2 ∧ decodeWord 0xA300 = .ldI 0x300 ∧ decodeWord 0xB123 = .jpV0 0x123 ∧
  decodeWord 0xC30F = .rnd 3 0x0F ∧ decodeWord 0xE39E = .skp 3 ∧ decodeWord 0xE3A1 = .sknp 3 ∧
  decodeWord 0xF71E = .addI 7 ∧ decodeWord 0xF065 = .ldVxMem 0 ∧ decodeWord 0xF700 = .unknown 0xF700

/-- Decoding the word of any well-formed instruction gives the instruction back, every operand at every value (R68 to R78). -/
def Obligations.DecodeOfEncode : Prop :=
  ∀ i : Instr, i.wf = true → decodeWord (encode i) = i

/-- Every word decodes to a well-formed instruction whose word it is: decoding is total and loses no bit (R77, R78). -/
def Obligations.EncodeOfDecode : Prop :=
  ∀ w : Word, (decodeWord w).wf = true ∧ encode (decodeWord w) = w

/-- R86: a word selects the row with `w & mask = match`, and UNKNOWN is the fallback when no row matches. -/
def Obligations.DecodeFollowsMatchMask : Prop :=
  ∀ w : Word,
    (∀ r ∈ opcodeRows, r.selects w = true ↔ (decodeWord w).mnemonic = r.mnemonic) ∧
    ((decodeWord w).mnemonic = "UNKNOWN" ↔ ∀ r ∈ opcodeRows, r.selects w = false)

/-! ## The cycle -/

/-- R81: when the bytes at PC decode to `i` and no fault is recorded, the step is Execute(i) on the state the scheduler
hands over, followed by the countdown unless `i` raised a fault. `beginCycle` is the scheduler's part: the accumulator is 0,
and only in uncapped mode one draw (the delta) is taken. -/
def Obligations.StepRunsDecodedInstruction : Prop :=
  ∀ (s : State) (i : Instr), s.fault = none → s.Fetchable →
    decode [s.mem.read s.pc.toNat, s.mem.read (s.pc.toNat + 1)] = .ok (i, []) →
    (step s =
      match exec i (beginCycle s) with
      | .next t => .next (if t.fault = none then timerCountdown (cycleAmount s) t else t)
      | .fault r => .fault r
      | .refused r => .refused r) ∧
    (beginCycle s).accNs = 0 ∧ OnlyChanges [.accumulator, .draws] s (beginCycle s)

/-- R67: the fetched word is the byte at PC times 256 plus the byte at PC + 1; when PC + 1 is past 4095 the cycle raises
FetchOutOfRange with info max(PC, 4096) and no word, and nothing else of the machine changes. -/
def Obligations.FetchReadsWordOrFaults : Prop :=
  ∀ s : State,
    (s.Fetchable → ∃ w, fetchWord s = some w ∧
      w.toNat = (s.mem.read s.pc.toNat).toNat * 256 + (s.mem.read (s.pc.toNat + 1)).toNat) ∧
    (¬ s.Fetchable → s.fault = none → ∃ t, step s = .next t ∧
      (∃ info : Word, info.toNat = max s.pc.toNat 4096 ∧
        t.fault = some { cause := .fetchOutOfRange, pc := s.pc, word := none, info := info }) ∧
      OnlyChanges [.faultReg, .accumulator, .draws] s t)

/-- R139: while a fault is recorded no cycle runs; a scheduler tick changes nothing but the accumulator (R154, vector F8), so
the fault stays and the host's snapshot and audio query read as at the fault; the state is no normal end. -/
def Obligations.FaultedCoreHalts : Prop :=
  ∀ (s : State) (r : FaultRecord), s.fault = some r →
    step s = .fault (.coreHalted r) ∧
    (∀ delta gate, ∃ t, tick delta gate s = .next t ∧ OnlyChanges [.accumulator] s t ∧
      snapshot t = snapshot s ∧ audioQuery t = audioQuery s) ∧
    ¬ NormalEnd s

/-- R140: a cycle that raises a fault leaves V, I, PC, the stack, memory, the timers, the framebuffer and `playing` as they
were, the countdown does not run, and `fault.pc` is the address of the faulting instruction. -/
def Obligations.FaultsArePrecise : Prop :=
  ∀ (s t : State) (r : FaultRecord), s.fault = none → step s = .next t → t.fault = some r →
    OnlyChanges [.faultReg, .accumulator, .draws] s t ∧ r.pc = s.pc

/-- R138, the executing instructions' rows: an instruction raises a fault only under the condition of its row, with that row's
cause and info; and the numeric codes. StackOverflow has no row here: `STACK_DEPTH` is unbounded (see CallPushesOwnAddress). -/
def Obligations.OnlyListedConditionsFault : Prop :=
  (∀ (i : Instr) (s t : State) (r : FaultRecord), s.fault = none → exec i s = .next t → t.fault = some r →
    r.pc = s.pc ∧ r.word = some (encode i) ∧
    ((i = .ret ∧ s.stack = [] ∧ r.cause = .stackUnderflow ∧ r.info = 0#16) ∨
     (∃ x y n, i = .drw x y n ∧ n ≠ 0#4 ∧ 4096 < s.i.toNat + n.toNat ∧
        r.cause = .memoryOutOfRange ∧ r.info.toNat = max s.i.toNat 4096) ∨
     (∃ x, i = .ldB x ∧ 4096 < s.i.toNat + 3 ∧ r.cause = .memoryOutOfRange ∧ r.info.toNat = max s.i.toNat 4096) ∨
     (∃ x, (i = .ldMemVx x ∨ i = .ldVxMem x) ∧ 4096 < s.i.toNat + (x.toNat + 1) ∧
        r.cause = .memoryOutOfRange ∧ r.info.toNat = max s.i.toNat 4096) ∨
     (∃ x, i = .addI x ∧ 0xFFFF < s.i.toNat + (s.reg x).toNat ∧ r.cause = .iOverflow ∧
        r.info.toNat = (s.i.toNat + (s.reg x).toNat) % 65536) ∨
     (∃ x, (i = .skp x ∨ i = .sknp x) ∧ 15 < (s.reg x).toNat ∧ r.cause = .keyOutOfRange ∧
        r.info.toNat = (s.reg x).toNat))) ∧
  FaultCause.code .stackUnderflow = 1 ∧ FaultCause.code .stackOverflow = 2 ∧ FaultCause.code .fetchOutOfRange = 3 ∧
  FaultCause.code .memoryOutOfRange = 4 ∧ FaultCause.code .iOverflow = 5 ∧ FaultCause.code .keyOutOfRange = 6

/-- R190, R195: every instruction completes in its cycle, in every state; a fault it raises is a next state too. This rests on
the default `UNKNOWN_POLICY = noop` (log 10). -/
def Obligations.EveryInstructionAnswersNext : Prop :=
  ∀ (i : Instr) (s : State), ∃ t, exec i s = .next t

/-! ## Unknown words -/

/-- R135, R136: under `UNKNOWN_POLICY = noop`, the model's choice (log 10), a no-op that still advances PC with a diagnostic emitted, and
nothing else changes; under `refuse` the word is refused, neither a fault nor a next state. -/
def Obligations.UnknownIsNoopOrRefused : Prop :=
  ∀ (w : Word) (s : State), s.Fetchable →
    (∃ t, exec (.unknown w) s = .next t ∧ t.pc.toNat = s.pc.toNat + 2 ∧
      t.diagnostics = { pc := s.pc, word := w } :: s.diagnostics ∧ OnlyChanges [.pc, .diagnostics] s t) ∧
    unknownUnder .noop w s = exec (.unknown w) s ∧ unknownUnder .refuse w s = .refused (.unknownWord w)

/-! ## Display -/

/-- R87: every pixel 0, PC + 2, VF and everything else unchanged. -/
def Obligations.ClsClearsScreen : Prop :=
  ∀ s : State, s.Fetchable →
    ∃ t, exec .cls s = .next t ∧ (∀ px py, t.fb.pixel px py = false) ∧ t.pc.toNat = s.pc.toNat + 2 ∧
      OnlyChanges [.screen, .pc] s t

/-- R88, R89: when its rows lie in memory (or n = 0), DRW XORs them onto the framebuffer: the pixel (px, py) of the screen
toggles exactly when the sprite covers it with a 1 bit, bit 7 leftmost, byte I + row; VF is 1 exactly when some pixel of the
screen went from 1 to 0; the coordinates are the old register values, also for x = F or y = F. -/
def Obligations.DrwXorsSprite : Prop :=
  ∀ (s : State) (x y : RegIdx) (n : BitVec 4), s.Fetchable → (n = 0#4 ∨ s.i.toNat + n.toNat ≤ 4096) →
    ∃ t, exec (.drw x y n) s = .next t ∧
      (∀ px py, px < 64 → py < 32 →
        t.fb.pixel px py =
          (s.fb.pixel px py ^^
            (decide ((s.reg x).toNat ≤ px) && decide (px < (s.reg x).toNat + 8) &&
             decide ((s.reg y).toNat ≤ py) && decide (py < (s.reg y).toNat + n.toNat) &&
             (s.mem.read (s.i.toNat + (py - (s.reg y).toNat))).getLsbD (7 - (px - (s.reg x).toNat))))) ∧
      ((t.reg vf = 1#8 ∧ ∃ px py, px < 64 ∧ py < 32 ∧ s.fb.pixel px py = true ∧ t.fb.pixel px py = false) ∨
       (t.reg vf = 0#8 ∧ ∀ px py, px < 64 → py < 32 → s.fb.pixel px py = true → t.fb.pixel px py = true)) ∧
      (∀ r, r ≠ vf → t.reg r = s.reg r) ∧ t.pc.toNat = s.pc.toNat + 2 ∧ OnlyChanges [.regs, .screen, .pc] s t

/-- R90: a start coordinate at or past the edge is not reduced: nothing is drawn and VF = 0. -/
def Obligations.DrwPastTheEdgeDrawsNothing : Prop :=
  ∀ (s : State) (x y : RegIdx) (n : BitVec 4), (n = 0#4 ∨ s.i.toNat + n.toNat ≤ 4096) →
    (64 ≤ (s.reg x).toNat ∨ 32 ≤ (s.reg y).toNat) →
    ∃ t, exec (.drw x y n) s = .next t ∧ t.reg vf = 0#8 ∧ (∀ r, r ≠ vf → t.reg r = s.reg r) ∧ OnlyChanges [.regs, .pc] s t

/-- R47, R138: DRW (n > 0), LD B, LD [I] and LD Vx,[I] with an address at 4096 or more raise MemoryOutOfRange, info the lowest
such address, before any effect. -/
def Obligations.MemoryRangeFaults : Prop :=
  ∀ (s : State) (i : Instr) (count : Nat),
    ((∃ x y n, i = .drw x y n ∧ count = n.toNat ∧ n ≠ 0#4) ∨ (∃ x, i = .ldB x ∧ count = 3) ∨
     (∃ x, (i = .ldMemVx x ∨ i = .ldVxMem x) ∧ count = x.toNat + 1)) →
    4096 < s.i.toNat + count →
    ∃ t, exec i s = .next t ∧
      (∃ info : Word, info.toNat = max s.i.toNat 4096 ∧
        t.fault = some { cause := .memoryOutOfRange, pc := s.pc, word := some (encode i), info := info }) ∧
      OnlyChanges [.faultReg] s t

/-! ## Control transfer -/

/-- R94, R96: the target exactly, with no +2; JP V0 takes the full sum, not wrapped. -/
def Obligations.JumpsSetPc : Prop :=
  ∀ (nnn : BitVec 12) (s : State),
    (∃ t, exec (.jp nnn) s = .next t ∧ t.pc.toNat = nnn.toNat ∧ OnlyChanges [.pc] s t) ∧
    (∃ t, exec (.jpV0 nnn) s = .next t ∧ t.pc.toNat = nnn.toNat + (s.reg 0#4).toNat ∧ OnlyChanges [.pc] s t)

/-- R95: CALL pushes its own address and jumps; under a finite `STACK_DEPTH` a full stack raises StackOverflow and nothing is
pushed. The machine's CALL is the unbounded one, the spec's default and the model's choice (log 9). -/
def Obligations.CallPushesOwnAddress : Prop :=
  ∀ (nnn : BitVec 12) (s : State),
    (∃ t, exec (.call nnn) s = .next t ∧ t.stack = s.stack ++ [s.pc] ∧ t.pc.toNat = nnn.toNat ∧
      OnlyChanges [.pc, .stack] s t) ∧
    (∀ depth, s.stack.length < depth → callUnder (some depth) nnn s = exec (.call nnn) s) ∧
    (∀ depth, s.stack.length = depth → ∃ t, callUnder (some depth) nnn s = .next t ∧
      t.fault = some { cause := .stackOverflow, pc := s.pc, word := some (encode (.call nnn)), info := 0#16 } ∧
      OnlyChanges [.faultReg] s t)

/-- R93: RET pops the last pushed address and resumes 2 past it; on an empty stack it raises StackUnderflow. A pushed value is
at most 4094 (an invariant, StepKeepsInvariant), so the +2 does not wrap. -/
def Obligations.RetPopsAndAdvances : Prop :=
  ∀ s : State,
    (∀ below a, s.stack = below ++ [a] → a.toNat ≤ 4094 →
      ∃ t, exec .ret s = .next t ∧ t.stack = below ∧ t.pc.toNat = a.toNat + 2 ∧ OnlyChanges [.pc, .stack] s t) ∧
    (s.stack = [] → ∃ t, exec .ret s = .next t ∧
      t.fault = some { cause := .stackUnderflow, pc := s.pc, word := some 0x00EE#16, info := 0#16 } ∧
      OnlyChanges [.faultReg] s t)

/-- R93, R95 together: a CALL and then a RET resume after the CALL with the stack as it was. That CALL succeeds in every such
state rests on the unbounded `STACK_DEPTH`, the default of R30 and the model's choice (log 9). -/
def Obligations.CallThenRetResumes : Prop :=
  ∀ (nnn : BitVec 12) (s : State), s.Fetchable →
    ∃ t u, exec (.call nnn) s = .next t ∧ exec .ret t = .next u ∧ u.pc.toNat = s.pc.toNat + 2 ∧ OnlyChanges [.pc] s u

/-! ## Skips -/

/-- R98, R99: SE Vx,nn skips on a match, SNE Vx,nn on a mismatch: PC + 4, else PC + 2. -/
def Obligations.ConstantSkips : Prop :=
  ∀ (x : RegIdx) (nn : Byte) (s : State), s.Fetchable →
    (∃ t, exec (.seImm x nn) s = .next t ∧ (s.reg x = nn → t.pc.toNat = s.pc.toNat + 4) ∧
      (s.reg x ≠ nn → t.pc.toNat = s.pc.toNat + 2) ∧ OnlyChanges [.pc] s t) ∧
    (∃ t, exec (.sneImm x nn) s = .next t ∧ (s.reg x ≠ nn → t.pc.toNat = s.pc.toNat + 4) ∧
      (s.reg x = nn → t.pc.toNat = s.pc.toNat + 2) ∧ OnlyChanges [.pc] s t)

/-- R100, R101: SE Vx,Vy and SNE Vx,Vy. -/
def Obligations.RegisterSkips : Prop :=
  ∀ (x y : RegIdx) (s : State), s.Fetchable →
    (∃ t, exec (.seReg x y) s = .next t ∧ (s.reg x = s.reg y → t.pc.toNat = s.pc.toNat + 4) ∧
      (s.reg x ≠ s.reg y → t.pc.toNat = s.pc.toNat + 2) ∧ OnlyChanges [.pc] s t) ∧
    (∃ t, exec (.sneReg x y) s = .next t ∧ (s.reg x ≠ s.reg y → t.pc.toNat = s.pc.toNat + 4) ∧
      (s.reg x = s.reg y → t.pc.toNat = s.pc.toNat + 2) ∧ OnlyChanges [.pc] s t)

/-! ## Loads, ALU, random -/

/-- R103, R105: LD Vx,nn and LD Vx,Vy. -/
def Obligations.RegisterLoads : Prop :=
  ∀ (x y : RegIdx) (nn : Byte) (s : State), s.Fetchable →
    (∃ t, exec (.ldImm x nn) s = .next t ∧ t.reg x = nn ∧ (∀ r, r ≠ x → t.reg r = s.reg r) ∧
      t.pc.toNat = s.pc.toNat + 2 ∧ OnlyChanges [.regs, .pc] s t) ∧
    (∃ t, exec (.ldReg x y) s = .next t ∧ t.reg x = s.reg y ∧ (∀ r, r ≠ x → t.reg r = s.reg r) ∧
      t.pc.toNat = s.pc.toNat + 2 ∧ OnlyChanges [.regs, .pc] s t)

/-- R104: the sum modulo 256; no flag, whatever the carry. -/
def Obligations.AddConstantSetsNoFlag : Prop :=
  ∀ (x : RegIdx) (nn : Byte) (s : State), s.Fetchable →
    ∃ t, exec (.addImm x nn) s = .next t ∧ (t.reg x).toNat = ((s.reg x).toNat + nn.toNat) % 256 ∧
      (∀ r, r ≠ x → t.reg r = s.reg r) ∧ t.pc.toNat = s.pc.toNat + 2 ∧ OnlyChanges [.regs, .pc] s t

/-- R106, R107, R108: bit by bit; no other register is written, VF included. -/
def Obligations.BitwiseSetsNoFlag : Prop :=
  ∀ (x y : RegIdx) (s : State), s.Fetchable →
    (∃ t, exec (.or x y) s = .next t ∧
      (∀ k, (t.reg x).getLsbD k = ((s.reg x).getLsbD k || (s.reg y).getLsbD k)) ∧
      (∀ r, r ≠ x → t.reg r = s.reg r) ∧ t.pc.toNat = s.pc.toNat + 2 ∧ OnlyChanges [.regs, .pc] s t) ∧
    (∃ t, exec (.and x y) s = .next t ∧
      (∀ k, (t.reg x).getLsbD k = ((s.reg x).getLsbD k && (s.reg y).getLsbD k)) ∧
      (∀ r, r ≠ x → t.reg r = s.reg r) ∧ t.pc.toNat = s.pc.toNat + 2 ∧ OnlyChanges [.regs, .pc] s t) ∧
    (∃ t, exec (.xor x y) s = .next t ∧
      (∀ k, (t.reg x).getLsbD k = ((s.reg x).getLsbD k ^^ (s.reg y).getLsbD k)) ∧
      (∀ r, r ≠ x → t.reg r = s.reg r) ∧ t.pc.toNat = s.pc.toNat + 2 ∧ OnlyChanges [.regs, .pc] s t)

/-- R109 with x ≠ F: the sum modulo 256, VF 1 exactly on a sum above 255; y = F uses VF's old value. -/
def Obligations.AddSetsCarry : Prop :=
  ∀ (x y : RegIdx) (s : State), s.Fetchable → x ≠ vf →
    ∃ t, exec (.addReg x y) s = .next t ∧ (t.reg x).toNat = ((s.reg x).toNat + (s.reg y).toNat) % 256 ∧
      (t.reg vf).toNat = (if 255 < (s.reg x).toNat + (s.reg y).toNat then 1 else 0) ∧
      (∀ r, r ≠ x → r ≠ vf → t.reg r = s.reg r) ∧ t.pc.toNat = s.pc.toNat + 2 ∧ OnlyChanges [.regs, .pc] s t

/-- R111, R112 with x ≠ F: the difference modulo 256, VF 1 exactly when no borrow occurred. -/
def Obligations.SubtractSetsNoBorrow : Prop :=
  ∀ (x y : RegIdx) (s : State), s.Fetchable → x ≠ vf →
    (∃ t, exec (.sub x y) s = .next t ∧ (t.reg x).toNat = ((s.reg x).toNat + 256 - (s.reg y).toNat) % 256 ∧
      (t.reg vf).toNat = (if (s.reg y).toNat ≤ (s.reg x).toNat then 1 else 0) ∧
      (∀ r, r ≠ x → r ≠ vf → t.reg r = s.reg r) ∧ t.pc.toNat = s.pc.toNat + 2 ∧ OnlyChanges [.regs, .pc] s t) ∧
    (∃ t, exec (.subn x y) s = .next t ∧ (t.reg x).toNat = ((s.reg y).toNat + 256 - (s.reg x).toNat) % 256 ∧
      (t.reg vf).toNat = (if (s.reg x).toNat ≤ (s.reg y).toNat then 1 else 0) ∧
      (∀ r, r ≠ x → r ≠ vf → t.reg r = s.reg r) ∧ t.pc.toNat = s.pc.toNat + 2 ∧ OnlyChanges [.regs, .pc] s t)

/-- R110 with x = F: ADD, SUB and SUBN into VF end with the flag or with the result, as `ARITH_VF_ORDER` says, which nothing
fixes (log 7); and the writeback under each order. -/
def Obligations.ArithmeticIntoVf : Prop :=
  (∀ (y : RegIdx) (s : State) (i : Instr) (result flag : Nat), s.Fetchable →
    ((i = .addReg vf y ∧ result = ((s.reg vf).toNat + (s.reg y).toNat) % 256 ∧
        flag = if 255 < (s.reg vf).toNat + (s.reg y).toNat then 1 else 0) ∨
     (i = .sub vf y ∧ result = ((s.reg vf).toNat + 256 - (s.reg y).toNat) % 256 ∧
        flag = if (s.reg y).toNat ≤ (s.reg vf).toNat then 1 else 0) ∨
     (i = .subn vf y ∧ result = ((s.reg y).toNat + 256 - (s.reg vf).toNat) % 256 ∧
        flag = if (s.reg vf).toNat ≤ (s.reg y).toNat then 1 else 0)) →
    ∃ t, exec i s = .next t ∧
      ((t.reg vf).toNat = match Config.arithVfOrder with | .flagLast => flag | .resultLast => result) ∧
      (∀ r, r ≠ vf → t.reg r = s.reg r) ∧ t.pc.toNat = s.pc.toNat + 2 ∧ OnlyChanges [.regs, .pc] s t) ∧
  (∀ (order : ArithVfOrder) (x : RegIdx) (result : Byte) (flag : Bool) (s : State),
    (x ≠ vf → (writeback order x result flag s).reg x = result ∧
      (writeback order x result flag s).reg vf = if flag then 1#8 else 0#8) ∧
    (writeback .flagLast vf result flag s).reg vf = (if flag then 1#8 else 0#8) ∧
    (writeback .resultLast vf result flag s).reg vf = result)

/-- R113, R114, R117: each `SHIFT_SOURCE`; the ejected bit goes to VF first and the result to V[x] last, so that with x = F
only the result is left. The machine's shifts read V[x], the spec's default and the model's choice (log 8). -/
def Obligations.ShiftsEjectThenStore : Prop :=
  ∀ (source : ShiftSource) (x y : RegIdx) (s : State), s.Fetchable →
    (∃ t, shrUnder source x y s = .next t ∧
      (t.reg x).toNat = (shiftOperand source x y s).toNat / 2 ∧
      (x ≠ vf → (t.reg vf).toNat = (shiftOperand source x y s).toNat % 2) ∧
      (∀ r, r ≠ x → r ≠ vf → t.reg r = s.reg r) ∧ t.pc.toNat = s.pc.toNat + 2 ∧ OnlyChanges [.regs, .pc] s t) ∧
    (∃ t, shlUnder source x y s = .next t ∧
      (t.reg x).toNat = (shiftOperand source x y s).toNat * 2 % 256 ∧
      (x ≠ vf → (t.reg vf).toNat = (shiftOperand source x y s).toNat / 128) ∧
      (∀ r, r ≠ x → r ≠ vf → t.reg r = s.reg r) ∧ t.pc.toNat = s.pc.toNat + 2 ∧ OnlyChanges [.regs, .pc] s t) ∧
    shiftOperand .x x y s = s.reg x ∧ shiftOperand .y x y s = s.reg y ∧
    (∃ t, exec (.shr x y) s = .next t ∧ shrUnder .x x y s = .next t) ∧
    (∃ t, exec (.shl x y) s = .next t ∧ shlUnder .x x y s = .next t)

/-- R115: V[x] is the drawn byte masked, so a subset of nn's bits, and one draw is taken even for nn = 0. That the byte is an
opaque function of the draw counter (log 12), and the counter itself (log 11), are the model's choice; nothing fixes the byte. -/
def Obligations.RandomIsMaskedDraw : Prop :=
  ∀ (x : RegIdx) (nn : Byte) (s : State), s.Fetchable →
    ∃ t, exec (.rnd x nn) s = .next t ∧
      (∀ k, (t.reg x).getLsbD k = ((Config.randomByte s.draws).getLsbD k && nn.getLsbD k)) ∧
      t.draws = s.draws + 1 ∧ (∀ r, r ≠ x → t.reg r = s.reg r) ∧ t.pc.toNat = s.pc.toNat + 2 ∧
      OnlyChanges [.regs, .pc, .draws] s t

/-! ## Key input -/

/-- R119, R120: with a key code in V[x], SKP skips when the key is held and SKNP when it is not; the answer is this draw's,
which nothing fixes (log 11). -/
def Obligations.KeySkips : Prop :=
  ∀ (x : RegIdx) (s : State), s.Fetchable → (s.reg x).toNat ≤ 15 →
    (∃ t, exec (.skp x) s = .next t ∧
      (t.pc.toNat = s.pc.toNat + if (Config.keysHeld s.draws).getLsbD (s.reg x).toNat then 4 else 2) ∧
      t.draws = s.draws + 1 ∧ OnlyChanges [.pc, .draws] s t) ∧
    (∃ t, exec (.sknp x) s = .next t ∧
      (t.pc.toNat = s.pc.toNat + if (Config.keysHeld s.draws).getLsbD (s.reg x).toNat then 2 else 4) ∧
      t.draws = s.draws + 1 ∧ OnlyChanges [.pc, .draws] s t)

/-- R122: with V[x] > 15, SKP and SKNP raise KeyOutOfRange with info = V[x], and do nothing else. -/
def Obligations.KeyCodePastFifteenFaults : Prop :=
  ∀ (x : RegIdx) (s : State) (i : Instr), (i = .skp x ∨ i = .sknp x) → 15 < (s.reg x).toNat →
    ∃ t, exec i s = .next t ∧
      (∃ info : Word, info.toNat = (s.reg x).toNat ∧
        t.fault = some { cause := .keyOutOfRange, pc := s.pc, word := some (encode i), info := info }) ∧
      OnlyChanges [.faultReg] s t

/-- R121, R166: while no key is held, LD Vx,K writes nothing and the PC stays; else it stores the code of a held key and
advances. That the answer is an opaque function of the draw counter, and the counter itself, are the model's choice (log 11);
nothing fixes the answer, and `awaitKey` is the instruction under each. -/
def Obligations.AwaitKeyWaitsOrStores : Prop :=
  ∀ (x : RegIdx) (s : State), s.Fetchable →
    ∃ t, exec (.ldVxK x) s = .next t ∧ t.draws = s.draws + 1 ∧
      (((∀ k, k < 16 → (Config.keysHeld s.draws).getLsbD k = false) ∧ OnlyChanges [.draws] s t) ∨
       (∃ k, k < 16 ∧ (Config.keysHeld s.draws).getLsbD k = true ∧ (t.reg x).toNat = k ∧
         (∀ r, r ≠ x → t.reg r = s.reg r) ∧ t.pc.toNat = s.pc.toNat + 2 ∧ OnlyChanges [.regs, .pc, .draws] s t)) ∧
      exec (.ldVxK x) s = awaitKey (anyHeld s) x s ∧ awaitKey none x s = .next s.nextDraw ∧
      (∀ k : KeyCode, ∃ u, awaitKey (some k) x s = .next u ∧ (u.reg x).toNat = k.toNat ∧
        (∀ r, r ≠ x → u.reg r = s.reg r) ∧ u.pc.toNat = s.pc.toNat + 2 ∧ OnlyChanges [.regs, .pc, .draws] s u)

/-! ## Index and memory -/

/-- R124, R126: I takes the 12-bit address, or five times V[x], not masked. -/
def Obligations.IndexLoads : Prop :=
  ∀ (nnn : BitVec 12) (x : RegIdx) (s : State), s.Fetchable →
    (∃ t, exec (.ldI nnn) s = .next t ∧ t.i.toNat = nnn.toNat ∧ t.pc.toNat = s.pc.toNat + 2 ∧
      OnlyChanges [.index, .pc] s t) ∧
    (∃ t, exec (.ldF x) s = .next t ∧ t.i.toNat = (s.reg x).toNat * 5 ∧ t.pc.toNat = s.pc.toNat + 2 ∧
      OnlyChanges [.index, .pc] s t)

/-- R125: the exact 16-bit sum, VF not written; a sum past 0xFFFF raises IOverflow with its low 16 bits and is not performed. -/
def Obligations.AddIndexOrOverflow : Prop :=
  ∀ (x : RegIdx) (s : State), s.Fetchable →
    (s.i.toNat + (s.reg x).toNat ≤ 0xFFFF → ∃ t, exec (.addI x) s = .next t ∧
      t.i.toNat = s.i.toNat + (s.reg x).toNat ∧ t.pc.toNat = s.pc.toNat + 2 ∧ OnlyChanges [.index, .pc] s t) ∧
    (0xFFFF < s.i.toNat + (s.reg x).toNat → ∃ t, exec (.addI x) s = .next t ∧
      (∃ info : Word, info.toNat = (s.i.toNat + (s.reg x).toNat) % 65536 ∧
        t.fault = some { cause := .iOverflow, pc := s.pc, word := some (encode (.addI x)), info := info }) ∧
      OnlyChanges [.faultReg] s t)

/-- R127: hundreds, tens and ones at I, I + 1, I + 2; every other byte and I unchanged. -/
def Obligations.BcdStoresThreeDigits : Prop :=
  ∀ (x : RegIdx) (s : State), s.Fetchable → s.i.toNat + 2 < 4096 →
    ∃ t, exec (.ldB x) s = .next t ∧
      (t.mem.read s.i.toNat).toNat = (s.reg x).toNat / 100 ∧
      (t.mem.read (s.i.toNat + 1)).toNat = (s.reg x).toNat / 10 % 10 ∧
      (t.mem.read (s.i.toNat + 2)).toNat = (s.reg x).toNat % 10 ∧
      (∀ a, a < s.i.toNat ∨ s.i.toNat + 2 < a → t.mem.read a = s.mem.read a) ∧
      t.pc.toNat = s.pc.toNat + 2 ∧ OnlyChanges [.memory, .pc] s t

/-- R128: V0..Vx at I..I+x, every other byte unchanged, I advanced by x + 1. -/
def Obligations.DumpStoresRegisters : Prop :=
  ∀ (x : RegIdx) (s : State), s.Fetchable → s.i.toNat + x.toNat < 4096 →
    ∃ t, exec (.ldMemVx x) s = .next t ∧
      (∀ r : RegIdx, r.toNat ≤ x.toNat → t.mem.read (s.i.toNat + r.toNat) = s.reg r) ∧
      (∀ a, a < s.i.toNat ∨ s.i.toNat + x.toNat < a → t.mem.read a = s.mem.read a) ∧
      t.i.toNat = s.i.toNat + x.toNat + 1 ∧ t.pc.toNat = s.pc.toNat + 2 ∧ OnlyChanges [.memory, .index, .pc] s t

/-- R129: V0..Vx from I..I+x, the registers above x unchanged, I advanced by x + 1. -/
def Obligations.LoadReadsRegisters : Prop :=
  ∀ (x : RegIdx) (s : State), s.Fetchable → s.i.toNat + x.toNat < 4096 →
    ∃ t, exec (.ldVxMem x) s = .next t ∧
      (∀ r : RegIdx, r.toNat ≤ x.toNat → t.reg r = s.mem.read (s.i.toNat + r.toNat)) ∧
      (∀ r : RegIdx, x.toNat < r.toNat → t.reg r = s.reg r) ∧
      t.i.toNat = s.i.toNat + x.toNat + 1 ∧ t.pc.toNat = s.pc.toNat + 2 ∧ OnlyChanges [.regs, .index, .pc] s t

/-- R134: a dump of V0..Vx and a later load from the same I give the registers back, from any state whose memory is as the
dump left it, whatever its registers; I is I₀ + x + 1 after each. -/
def Obligations.DumpThenLoadRestores : Prop :=
  ∀ (x : RegIdx) (s u : State), s.i.toNat + x.toNat < 4096 →
    ∃ t, exec (.ldMemVx x) s = .next t ∧ t.i.toNat = s.i.toNat + x.toNat + 1 ∧
      (u.mem = t.mem → u.i = s.i → ∃ z, exec (.ldVxMem x) u = .next z ∧
        (∀ r : RegIdx, r.toNat ≤ x.toNat → z.reg r = s.reg r) ∧
        (∀ r : RegIdx, x.toNat < r.toNat → z.reg r = u.reg r) ∧ z.i.toNat = s.i.toNat + x.toNat + 1)

/-- R54: a write changes exactly one cell, and a read returns the last byte written there. -/
def Obligations.WriteChangesOneCell : Prop :=
  ∀ (m : Memory) (a : Nat) (b : Byte), a < 4096 →
    (m.write a b).read a = b ∧ (∀ k, k ≠ a → (m.write a b).read k = m.read k) ∧
    (∀ c, ((m.write a b).write a c).read a = c)

/-- Memory in canonical form is determined by what it reads as: equal memories are equal data. -/
def Obligations.CanonicalMemoryIsUnique : Prop :=
  ∀ m n : Memory, m.wf → n.wf → (∀ a, a < 4096 → m.read a = n.read a) → m = n

/-! ## Timers -/

/-- R130: the whole ticks left of the delay timer, within the bound of R33 (an invariant, StepKeepsInvariant). -/
def Obligations.ReadDelayTimer : Prop :=
  ∀ (x : RegIdx) (s : State), s.Fetchable → s.dtNs ≤ 255 * Config.timerTickNs →
    ∃ t, exec (.ldVxDt x) s = .next t ∧ (t.reg x).toNat = s.dtNs / Config.timerTickNs ∧
      (∀ r, r ≠ x → t.reg r = s.reg r) ∧ t.pc.toNat = s.pc.toNat + 2 ∧ OnlyChanges [.regs, .pc] s t

/-- R131, R132: V[x] ticks into the timer; LD ST also sets `playing`, even for 0. -/
def Obligations.SetTimers : Prop :=
  ∀ (x : RegIdx) (s : State), s.Fetchable →
    (∃ t, exec (.ldDtVx x) s = .next t ∧ t.dtNs = (s.reg x).toNat * Config.timerTickNs ∧
      t.pc.toNat = s.pc.toNat + 2 ∧ OnlyChanges [.delay, .pc] s t) ∧
    (∃ t, exec (.ldStVx x) s = .next t ∧ t.stNs = (s.reg x).toNat * Config.timerTickNs ∧ t.playing = true ∧
      t.pc.toNat = s.pc.toNat + 2 ∧ OnlyChanges [.sound, .audio, .pc] s t)

/-- R32: the timer primitives, and get_scaled right after set_scaled(v) returns v. -/
def Obligations.TimerPrimitives : Prop :=
  (∀ v : Byte, setScaled v = v.toNat * Config.timerTickNs ∧ getScaled (setScaled v) = v) ∧
  (∀ ns, ns ≤ 255 * Config.timerTickNs → (getScaled ns).toNat = ns / Config.timerTickNs) ∧
  (∀ ns d, countdownNs ns d = max 0 (ns - d)) ∧ 0 < Config.timerTickNs ∧ 0 < Config.tickDurationNs

/-- R150, R153: both timers lose d, saturating at 0, and `playing` is cleared exactly when the sound timer's scaled value is
then 0. -/
def Obligations.CountdownClearsSoundFlag : Prop :=
  ∀ (d : Nat) (s : State),
    (timerCountdown d s).dtNs = s.dtNs - d ∧ (timerCountdown d s).stNs = s.stNs - d ∧
    ((s.stNs - d) / Config.timerTickNs = 0 → (timerCountdown d s).playing = false) ∧
    ((s.stNs - d) / Config.timerTickNs ≠ 0 → (timerCountdown d s).playing = s.playing) ∧
    OnlyChanges [.delay, .sound, .audio] s (timerCountdown d s)

/-- R152: a delay timer set to V[x] ticks in a cycle holds max(0, v·T − (j+1)·D) after the countdown of the j-th cycle after
it, and its scaled value is the whole ticks in that, while no further LD DT executes; likewise the sound timer. `f 0` is
the state before the setting cycle. -/
def Obligations.CappedTimerLaw : Prop :=
  ∀ (d j : Nat) (f : Nat → State) (x : RegIdx),
    (∀ k, k ≤ j → cycle d (f k) = .next (f (k + 1)) ∧ (f (k + 1)).fault = none) →
    (nextInstr (f 0) = some (.ldDtVx x) → (∀ k, 0 < k → k ≤ j → ∀ z, nextInstr (f k) ≠ some (.ldDtVx z)) →
      (f (j + 1)).dtNs = ((f 0).reg x).toNat * Config.timerTickNs - (j + 1) * d ∧
      scaledTicks (f (j + 1)).dtNs = (((f 0).reg x).toNat * Config.timerTickNs - (j + 1) * d) / Config.timerTickNs) ∧
    (nextInstr (f 0) = some (.ldStVx x) → (∀ k, 0 < k → k ≤ j → ∀ z, nextInstr (f k) ≠ some (.ldStVx z)) →
      (f (j + 1)).stNs = ((f 0).reg x).toNat * Config.timerTickNs - (j + 1) * d ∧
      scaledTicks (f (j + 1)).stNs = (((f 0).reg x).toNat * Config.timerTickNs - (j + 1) * d) / Config.timerTickNs)

/-- R187: LD DT,Vx with value v followed at once by LD Vy,DT reads floor(max(0, v·T − d) / T), since the countdown of the
setting cycle comes between; that is v − 1 when 0 < d ≤ T and v ≥ 1. -/
def Obligations.DelayReadAfterSet : Prop :=
  ∀ (d : Nat) (x y : RegIdx) (s t u : State),
    nextInstr s = some (.ldDtVx x) → cycle d s = .next t → nextInstr t = some (.ldVxDt y) → cycle d t = .next u →
    (u.reg y).toNat = ((s.reg x).toNat * Config.timerTickNs - d) / Config.timerTickNs ∧
    (0 < d → d ≤ Config.timerTickNs → 1 ≤ (s.reg x).toNat → (u.reg y).toNat = (s.reg x).toNat - 1)

/-! ## Scheduler -/

/-- R154: the capped iteration. Only strictly more than d fires; then the accumulator is 0, and the cycle runs if the gate is
open and no fault is recorded. -/
def Obligations.CappedTick : Prop :=
  ∀ (d delta : Nat) (gate : Bool) (s : State),
    (s.accNs + delta ≤ d → ∃ t, tickCapped d delta gate s = .next t ∧ t.accNs = s.accNs + delta ∧
      OnlyChanges [.accumulator] s t) ∧
    (d < s.accNs + delta → gate = true → s.fault = none → tickCapped d delta gate s = cycle d (s.setAcc 0)) ∧
    (d < s.accNs + delta → (gate = false ∨ s.fault ≠ none) → ∃ t, tickCapped d delta gate s = .next t ∧ t.accNs = 0 ∧
      OnlyChanges [.accumulator] s t)

/-- R155, R160: the uncapped iteration runs a cycle with the delta every time, unless the gate is closed or a fault is recorded. -/
def Obligations.UncappedTick : Prop :=
  ∀ (delta : Nat) (gate : Bool) (s : State),
    (gate = true → s.fault = none → tickUncapped delta gate s = cycle delta (s.setAcc 0)) ∧
    ((gate = false ∨ s.fault ≠ none) → ∃ t, tickUncapped delta gate s = .next t ∧ t.accNs = 0 ∧
      OnlyChanges [.accumulator] s t)

/-- R151, R154, R155: `tick` is the iteration of the configured mode, and `step` is a fired iteration with the gate open and no
fault: with any firing delta when capped, with the drawn delta when uncapped (log 1; which mode is configured nothing fixes). -/
def Obligations.StepIsFiredTick : Prop :=
  (∀ delta gate s, (Config.configHz = 0 ∧ tick delta gate s = tickUncapped delta gate s) ∨
    (0 < Config.configHz ∧ tick delta gate s = tickCapped Config.tickDurationNs delta gate s)) ∧
  (∀ s : State, s.fault = none →
    (0 < Config.configHz ∧ ∀ delta, Config.tickDurationNs < s.accNs + delta → tick delta true s = step s) ∨
    (Config.configHz = 0 ∧ tick (Config.tickDelta s.draws) true (s.setDraws (s.draws + 1)) = step s))

/-! ## Reset and construction -/

/-- The state after reset: the values of R44 the spec states (PC, font, stack, `playing`, accumulator, fault), and zero where
R44 has `RESET_FILL` (the default `zero` of D27, the model's choice for State.reset: log 3). -/
def Obligations.ResetValues : Prop :=
  State.reset.pc = 512#16 ∧ State.reset.stack = [] ∧ State.reset.playing = false ∧ State.reset.accNs = 0 ∧
  State.reset.fault = none ∧
  (∀ a, a < 80 → State.reset.mem.read a = Policy.font.getD a 0#8) ∧ Policy.font.length = 80 ∧
  (∀ a, 80 ≤ a → State.reset.mem.read a = 0#8) ∧
  (∀ r, State.reset.reg r = 0#8) ∧ State.reset.i = 0#16 ∧ State.reset.dtNs = 0 ∧ State.reset.stNs = 0 ∧
  (∀ px py, State.reset.fb.pixel px py = false)

/-- R178 and R44 under any `RESET_FILL`: construction from a ROM of 1 to 3488 bytes gives the font at 0, the ROM at 512, and
the fill everywhere else; PC = 512, stack empty, `playing` 0, accumulator 0, fault none. -/
def Obligations.ConstructLoadsFontAndRom : Prop :=
  ∀ (f : ResetFill) (rom : List Byte), 0 < rom.length → rom.length ≤ 3488 →
    ∃ s, construct f (some rom) = .ok s ∧
      (∀ a, a < 80 → s.mem.read a = Policy.font.getD a 0#8) ∧
      (∀ k, k < rom.length → s.mem.read (512 + k) = rom.getD k 0#8) ∧
      (∀ a, 80 ≤ a → (a < 512 ∨ 512 + rom.length ≤ a) → s.mem.read a = f.mem.read a) ∧
      s.v = f.v ∧ s.i = f.i ∧ s.dtNs = f.dtNs ∧ s.stNs = f.stNs ∧ s.fb = f.fb ∧
      s.pc = 512#16 ∧ s.stack = [] ∧ s.playing = false ∧ s.accNs = 0 ∧ s.fault = none

/-- R176: an empty ROM, a ROM of more than 3488 bytes and an unreadable one make no machine; any other ROM makes one. -/
def Obligations.ConstructRejectsBadRom : Prop :=
  ∀ (f : ResetFill) (rom : List Byte),
    (rom.length = 0 ↔ construct f (some rom) = .error .romEmpty) ∧
    (3488 < rom.length ↔ construct f (some rom) = .error .romTooBig) ∧
    (0 < rom.length → rom.length ≤ 3488 → ∃ s, construct f (some rom) = .ok s) ∧
    construct f none = .error .romUnreadable

/-! ## Invariants and whole-machine rules -/

/-- The invariant holds at reset. -/
def Obligations.ResetMeetsInvariant : Prop := State.reset.Inv

/-- Construction under any fill that R180 allows meets the invariant. -/
def Obligations.ConstructMeetsInvariant : Prop :=
  ∀ (f : ResetFill) (rom : List Byte) (s : State), f.Valid → construct f (some rom) = .ok s → s.Inv

/-- Every step keeps the invariant: memory canonical, PC at most 0x10FE (R26), stacked addresses at most 4094 (R93), timers
within 255 ticks (R33), silence at a scaled 0 (R153), the accumulator within D (R154), `fault.pc` = PC (R140). -/
def Obligations.StepKeepsInvariant : Prop :=
  ∀ s t : State, s.Inv → step s = .next t → t.Inv

/-- Every scheduler iteration keeps the invariant, and so does every sequence of them up to the host's stop. -/
def Obligations.TicksKeepInvariant : Prop :=
  ∀ (inputs : List TickInput) (s t : State), s.Inv → runTicks inputs s = .next t → t.Inv

/-- The writers of each part, over all instructions. A V register: the destination x, one of V0..Vx of LD Vx,[I], or VF as the
flag (R20, R21). PC: PC + 2 but for the instructions R82 names, and for one that faults, which leaves it (R140). Only CALL and
RET reach the stack (R29), only CLS and DRW the framebuffer (R35), only LD B and LD [I] memory (R49, R52), only the five of R27
the index register, only LD DT and LD ST the timers (R34), only LD ST `playing` (R163), only the instructions of R138 the fault
register, only UNKNOWN emits (R135), and no instruction writes the accumulator (R42). The draw counter is the model's own
(log 11): only RND and the key instructions take a draw. CALL is not among those that fault, by the model's choice (log 9). -/
def Obligations.OnlyNamedInstructionsWrite : Prop :=
  ∀ (i : Instr) (s t : State), exec i s = .next t →
    (∀ r, t.reg r ≠ s.reg r →
      (∃ y nn, i = .ldImm r nn ∨ i = .addImm r nn ∨ i = .ldReg r y ∨ i = .or r y ∨ i = .and r y ∨ i = .xor r y ∨
        i = .addReg r y ∨ i = .sub r y ∨ i = .subn r y ∨ i = .shr r y ∨ i = .shl r y ∨ i = .rnd r nn ∨ i = .ldVxK r ∨
        i = .ldVxDt r) ∨
      (∃ x, i = .ldVxMem x ∧ r.toNat ≤ x.toNat) ∨
      (r = vf ∧ ∃ x y, i = .addReg x y ∨ i = .sub x y ∨ i = .subn x y ∨ i = .shr x y ∨ i = .shl x y ∨ ∃ n, i = .drw x y n)) ∧
    (t.pc ≠ s.pc + 2#16 →
      i = .ret ∨ (∃ nnn, i = .jp nnn ∨ i = .call nnn ∨ i = .jpV0 nnn) ∨
      (t.pc = s.pc + 4#16 ∧ ∃ x y nn, i = .seImm x nn ∨ i = .sneImm x nn ∨ i = .seReg x y ∨ i = .sneReg x y ∨
        i = .skp x ∨ i = .sknp x) ∨
      (t.pc = s.pc ∧ ((∃ x, i = .ldVxK x) ∨ MayFault i))) ∧
    (¬ Part.Same .stack s t → i = .ret ∨ ∃ nnn, i = .call nnn) ∧
    (¬ Part.Same .screen s t → i = .cls ∨ ∃ x y n, i = .drw x y n) ∧
    (¬ Part.Same .memory s t → ∃ x, i = .ldB x ∨ i = .ldMemVx x) ∧
    (¬ Part.Same .index s t → (∃ nnn, i = .ldI nnn) ∨ ∃ x, i = .addI x ∨ i = .ldF x ∨ i = .ldMemVx x ∨ i = .ldVxMem x) ∧
    (¬ Part.Same .delay s t → ∃ x, i = .ldDtVx x) ∧
    (¬ Part.Same .sound s t → ∃ x, i = .ldStVx x) ∧
    (¬ Part.Same .audio s t → ∃ x, i = .ldStVx x) ∧
    (¬ Part.Same .faultReg s t → MayFault i) ∧
    (¬ Part.Same .draws s t → ∃ x nn, i = .rnd x nn ∨ i = .skp x ∨ i = .sknp x ∨ i = .ldVxK x) ∧
    (¬ Part.Same .diagnostics s t → ∃ w, i = .unknown w) ∧
    Part.Same .accumulator s t

/-- R21: VF changes only by ADD Vx,Vy, SUB, SUBN, SHR, SHL and DRW, or by an instruction that names it as its destination x,
or by LD VF,[I]. -/
def Obligations.OnlyFlagWritersChangeVf : Prop :=
  ∀ (i : Instr) (s t : State), exec i s = .next t → t.reg vf ≠ s.reg vf →
    (∃ x y, i = .addReg x y ∨ i = .sub x y ∨ i = .subn x y ∨ i = .shr x y ∨ i = .shl x y ∨ ∃ n, i = .drw x y n) ∨
    (∃ y nn, i = .ldImm vf nn ∨ i = .addImm vf nn ∨ i = .ldReg vf y ∨ i = .or vf y ∨ i = .and vf y ∨ i = .xor vf y ∨
      i = .rnd vf nn ∨ i = .ldVxK vf ∨ i = .ldVxDt vf ∨ i = .ldVxMem vf)

/-- R193: at a normal end (the next fetch is a jump to itself, no fault) the step leaves V, I, PC, the stack, memory and the
framebuffer unchanged, changes only the timers and `playing` (and the scheduler's own accumulator and draw), and the state is
again a normal end. -/
def Obligations.NormalEndIsStable : Prop :=
  ∀ s : State, NormalEnd s →
    ∃ t, step s = .next t ∧ NormalEnd t ∧ OnlyChanges [.delay, .sound, .audio, .accumulator, .draws] s t

/-- R63, R64: a cycle whose fetched instruction stores, LD [I],Vx or LD B,Vx, executes that instruction as fetched, wherever it
stores, its own two bytes included; and every fetch from the memory it leaves, at PC + 2 in the next cycle or at any address
later, reads the stored bytes where it stored and the old ones elsewhere. -/
def Obligations.StoreIsSeenByNextFetch : Prop :=
  ∀ (d : Nat) (s : State) (i : Instr) (stored : List Byte), s.fault = none → nextInstr s = some i →
    ((∃ x, i = .ldMemVx x ∧ stored = rangeBytes x s) ∨ (∃ x, i = .ldB x ∧ stored = bcdDigits (s.reg x))) →
    s.i.toNat + stored.length ≤ 4096 →
    ∃ t, exec i s = .next t ∧ cycle d s = .next (timerCountdown d t) ∧ t.pc.toNat = s.pc.toNat + 2 ∧
      ∀ u : State, u.mem = (timerCountdown d t).mem → u.Fetchable → ∃ hi lo, fetchWord u = some (wordOfBytes hi lo) ∧
        hi = (if s.i.toNat ≤ u.pc.toNat ∧ u.pc.toNat < s.i.toNat + stored.length then
          stored.getD (u.pc.toNat - s.i.toNat) 0#8 else s.mem.read u.pc.toNat) ∧
        lo = (if s.i.toNat ≤ u.pc.toNat + 1 ∧ u.pc.toNat + 1 < s.i.toNat + stored.length then
          stored.getD (u.pc.toNat + 1 - s.i.toNat) 0#8 else s.mem.read (u.pc.toNat + 1))
end

