-- ==== Sys2Proof/Laws/Bits.lean ====
section
/-! SUPPORT. A word as four nibbles: every word is one such, and the fields, masks and equality of words are those of its
nibbles. Proofs about encodings turn to these and never to single bits. -/

namespace Sys2Proof

/-- The word with these nibbles, most significant first (R7). -/
def ofNibbles (a b c d : BitVec 4) : Word := a ++ b ++ c ++ d

theorem append_inj {m n : Nat} (a a' : BitVec m) (b b' : BitVec n) : a ++ b = a' ++ b' ↔ a = a' ∧ b = b' := by
  constructor
  · intro h
    have ha := congrArg (BitVec.extractLsb' n m) h
    have hb := congrArg (BitVec.extractLsb' 0 n) h
    simp only [BitVec.extractLsb'_append_eq_left, BitVec.extractLsb'_append_eq_right] at ha hb
    exact ⟨ha, hb⟩
  · rintro ⟨rfl, rfl⟩; rfl

theorem exists_nibbles8 (v : Byte) : ∃ c d : BitVec 4, v = c ++ d :=
  ⟨v.extractLsb' 4 4, v.extractLsb' 0 4, by
    rw [BitVec.extractLsb'_append_extractLsb'_eq_extractLsb' (by rfl)]; simp⟩

theorem exists_nibbles12 (v : BitVec 12) : ∃ b c d : BitVec 4, v = b ++ c ++ d :=
  ⟨v.extractLsb' 8 4, v.extractLsb' 4 4, v.extractLsb' 0 4, by
    rw [BitVec.extractLsb'_append_extractLsb'_eq_extractLsb' (by rfl),
      BitVec.extractLsb'_append_extractLsb'_eq_extractLsb' (by rfl)]; simp⟩

/-- Every word is its four nibbles. -/
theorem ofNibbles_fields (w : Word) : w = ofNibbles (opField w) (xField w) (yField w) (nField w) := by
  unfold ofNibbles opField xField yField nField
  rw [BitVec.extractLsb'_append_extractLsb'_eq_extractLsb' (by rfl),
    BitVec.extractLsb'_append_extractLsb'_eq_extractLsb' (by rfl),
    BitVec.extractLsb'_append_extractLsb'_eq_extractLsb' (by rfl)]
  simp

theorem ofNibbles_inj (a b c d a' b' c' d' : BitVec 4) :
    ofNibbles a b c d = ofNibbles a' b' c' d' ↔ a = a' ∧ b = b' ∧ c = c' ∧ d = d' := by
  unfold ofNibbles
  rw [append_inj, append_inj, append_inj]
  tauto

theorem ofNibbles_and (a b c d a' b' c' d' : BitVec 4) :
    ofNibbles a b c d &&& ofNibbles a' b' c' d' = ofNibbles (a &&& a') (b &&& b') (c &&& c') (d &&& d') := by
  unfold ofNibbles
  rw [BitVec.and_append, BitVec.and_append, BitVec.and_append]

section Fields

variable (a b c d : BitVec 4)

@[simp] theorem nField_ofNibbles : nField (ofNibbles a b c d) = d := BitVec.extractLsb'_append_eq_right

@[simp] theorem yField_ofNibbles : yField (ofNibbles a b c d) = c := by
  have h := ofNibbles_fields (ofNibbles a b c d)
  rw [ofNibbles_inj] at h
  exact h.2.2.1.symm

@[simp] theorem xField_ofNibbles : xField (ofNibbles a b c d) = b := by
  have h := ofNibbles_fields (ofNibbles a b c d)
  rw [ofNibbles_inj] at h
  exact h.2.1.symm

@[simp] theorem opField_ofNibbles : opField (ofNibbles a b c d) = a := by
  have h := ofNibbles_fields (ofNibbles a b c d)
  rw [ofNibbles_inj] at h
  exact h.1.symm

@[simp] theorem nnField_ofNibbles : nnField (ofNibbles a b c d) = c ++ d := by
  have h : nnField (ofNibbles a b c d) = yField (ofNibbles a b c d) ++ nField (ofNibbles a b c d) := by
    unfold nnField yField nField
    rw [BitVec.extractLsb'_append_extractLsb'_eq_extractLsb' (by rfl)]
  rw [h, yField_ofNibbles, nField_ofNibbles]

@[simp] theorem nnnField_ofNibbles : nnnField (ofNibbles a b c d) = b ++ c ++ d := by
  have h : nnnField (ofNibbles a b c d) =
      xField (ofNibbles a b c d) ++ yField (ofNibbles a b c d) ++ nField (ofNibbles a b c d) := by
    unfold nnnField xField yField nField
    rw [BitVec.extractLsb'_append_extractLsb'_eq_extractLsb' (by rfl),
      BitVec.extractLsb'_append_extractLsb'_eq_extractLsb' (by rfl)]
  rw [h, xField_ofNibbles, yField_ofNibbles, nField_ofNibbles]

end Fields

/-- An address form's word, in nibbles. -/
theorem append_address (a b c d : BitVec 4) : (a ++ (b ++ c ++ d) : Word) = ofNibbles a b c d := by
  have h := ofNibbles_fields (a ++ (b ++ c ++ d))
  have ho : opField (a ++ (b ++ c ++ d)) = a := BitVec.extractLsb'_append_eq_left
  have hl : nnnField (a ++ (b ++ c ++ d)) = b ++ c ++ d := BitVec.extractLsb'_append_eq_right
  have hn := nnnField_ofNibbles (opField (a ++ (b ++ c ++ d))) (xField (a ++ (b ++ c ++ d)))
    (yField (a ++ (b ++ c ++ d))) (nField (a ++ (b ++ c ++ d)))
  rw [← h, hl, append_inj, append_inj] at hn
  rw [h, ofNibbles_inj]
  exact ⟨ho, hn.1.1.symm, hn.1.2.symm, hn.2.symm⟩

/-- A constant form's word, in nibbles. -/
theorem append_constant (a b c d : BitVec 4) : (a ++ b ++ (c ++ d) : Word) = ofNibbles a b c d := by
  have h := ofNibbles_fields (a ++ b ++ (c ++ d))
  have hl : nnField (a ++ b ++ (c ++ d)) = c ++ d := BitVec.extractLsb'_append_eq_right
  have hh : (a ++ b ++ (c ++ d) : Word).extractLsb' 8 8 = a ++ b := BitVec.extractLsb'_append_eq_left
  have hn := nnField_ofNibbles (opField (a ++ b ++ (c ++ d))) (xField (a ++ b ++ (c ++ d)))
    (yField (a ++ b ++ (c ++ d))) (nField (a ++ b ++ (c ++ d)))
  have hx : opField (a ++ b ++ (c ++ d)) ++ xField (a ++ b ++ (c ++ d)) = (a ++ b ++ (c ++ d) : Word).extractLsb' 8 8 := by
    unfold opField xField
    rw [BitVec.extractLsb'_append_extractLsb'_eq_extractLsb' (by rfl)]
  rw [← h, hl, append_inj] at hn
  rw [hh, append_inj] at hx
  rw [h, ofNibbles_inj]
  exact ⟨hx.1, hx.2, hn.1.symm, hn.2.symm⟩

end Sys2Proof
end

