-- ==== Sys2Proof/Laws/Blit.lean ====
section
/-! SUPPORT. What a toggle and a blit do to every pixel of the screen (spec/40_display.md R89, R90). -/

namespace Sys2Proof.Machine

/-- A toggle flips exactly one pixel (R89). -/
theorem pixel_toggle (fb : Framebuffer) (px py a b : Nat) (hx : px < Config.screenW) (hy : py < Config.screenH) :
    (fb.toggle px py).pixel a b = (fb.pixel a b ^^ (decide (a = px) && decide (b = py))) := by
  unfold Framebuffer.toggle Framebuffer.pixel
  rw [dif_pos hy]
  by_cases hb : b < Config.screenH
  · rw [dif_pos hb, dif_pos hb, Vector.getElem_set]
    by_cases h : py = b
    · subst h
      simp only [if_true, BitVec.getLsbD_xor, BitVec.getLsbD_twoPow, hx, decide_true, Bool.true_and, Bool.and_true]
      congr 1; simp [eq_comm]
    · have h' : ¬ b = py := fun e => h e.symm
      simp [h, h']
  · rw [dif_neg hb, dif_neg hb]
    have : b ≠ py := by omega
    simp [this]

/-- The blit's loop over any list of distinct positions: which pixels it toggles, and when it collides. -/
theorem blitLoop_spec (cx cy : Nat) (rows : List Byte) (ps : List (Nat × Nat)) (hn : ps.Nodup) (fb : Framebuffer)
    (c : Bool) :
    let r := ps.foldl (blitPixel cx cy rows) (fb, c)
    (∀ a b, r.1.pixel a b =
      (fb.pixel a b ^^ (decide (a < Config.screenW) && decide (b < Config.screenH) && decide (cx ≤ a) && decide (cy ≤ b) &&
        decide ((b - cy, a - cx) ∈ ps) && spriteBit rows (b - cy) (a - cx)))) ∧
    (r.2 = true ↔ c = true ∨
      ∃ a b, a < Config.screenW ∧ b < Config.screenH ∧ cx ≤ a ∧ cy ≤ b ∧
        (b - cy, a - cx) ∈ ps ∧ spriteBit rows (b - cy) (a - cx) = true ∧ fb.pixel a b = true) := by
  induction ps generalizing fb c with
  | nil => simp
  | cons p ps ih =>
    obtain ⟨r, cc⟩ := p
    rw [List.nodup_cons] at hn
    simp only [List.foldl_cons]
    by_cases hc : (spriteBit rows r cc && decide (cx + cc < Config.screenW) && decide (cy + r < Config.screenH)) = true
    · have hb : blitPixel cx cy rows (fb, c) (r, cc) =
          (fb.toggle (cx + cc) (cy + r), c || fb.pixel (cx + cc) (cy + r)) := by
        simp only [blitPixel, hc, if_true]
      simp at hc
      obtain ⟨⟨h1, h2⟩, h3⟩ := hc
      obtain ⟨i1, i2⟩ := ih hn.2 (fb.toggle (cx + cc) (cy + r)) (c || fb.pixel (cx + cc) (cy + r))
      rw [hb]
      refine ⟨fun a b => ?_, ?_⟩
      · rw [i1, pixel_toggle _ _ _ _ _ h2 h3]
        by_cases hab : a = cx + cc ∧ b = cy + r
        · obtain ⟨rfl, rfl⟩ := hab
          simp [h1, h2, h3, hn.1]
        · have e1 : (decide (a = cx + cc) && decide (b = cy + r)) = false := by simpa using hab
          rw [e1]
          by_cases h5 : cx ≤ a
          · by_cases h6 : cy ≤ b
            · have : ¬ (b - cy, a - cx) = (r, cc) := by
                rintro e; simp only [Prod.mk.injEq] at e; apply hab; omega
              simp [List.mem_cons, this]
            · simp [h6]
          · simp [h5]
      · rw [i2]
        simp only [Bool.or_eq_true]
        constructor
        · rintro ((h | h) | ⟨a, b, q1, q2, q3, q4, q5, q6, q7⟩)
          · exact .inl h
          · exact .inr ⟨cx + cc, cy + r, h2, h3, by omega, by omega, by simp, by simpa using h1, h⟩
          · refine .inr ⟨a, b, q1, q2, q3, q4, by simp [q5], q6, ?_⟩
            rw [pixel_toggle _ _ _ _ _ h2 h3] at q7
            have : (decide (a = cx + cc) && decide (b = cy + r)) = false := by
              by_contra hne
              simp at hne
              obtain ⟨rfl, rfl⟩ := hne
              apply hn.1; simpa using q5
            rw [this] at q7; simpa using q7
        · rintro (h | ⟨a, b, q1, q2, q3, q4, q5, q6, q7⟩)
          · exact .inl (.inl h)
          · rcases List.mem_cons.1 q5 with e | q5'
            · simp only [Prod.mk.injEq] at e
              have e1 : a = cx + cc := by omega
              have e2 : b = cy + r := by omega
              subst e1 e2
              exact .inl (.inr q7)
            · refine .inr ⟨a, b, q1, q2, q3, q4, q5', q6, ?_⟩
              rw [pixel_toggle _ _ _ _ _ h2 h3]
              have : (decide (a = cx + cc) && decide (b = cy + r)) = false := by
                by_contra hne
                simp at hne
                obtain ⟨rfl, rfl⟩ := hne
                apply hn.1; simpa using q5'
              rw [this]; simpa using q7
    · have hb : blitPixel cx cy rows (fb, c) (r, cc) = (fb, c) := by
        unfold blitPixel; exact if_neg hc
      rw [hb]
      obtain ⟨i1, i2⟩ := ih hn.2 fb c
      refine ⟨fun a b => ?_, ?_⟩
      · rw [i1]
        by_cases hab : (b - cy, a - cx) = (r, cc) ∧ cx ≤ a ∧ cy ≤ b
        · obtain ⟨e, h5, h6⟩ := hab
          simp only [Prod.mk.injEq] at e
          have e1 : a = cx + cc := by omega
          have e2 : b = cy + r := by omega
          subst e1 e2
          simp at hc
          simp only [Nat.le_add_right, Nat.add_sub_cancel_left, decide_true, Bool.and_true]
          congr 1
          by_cases hs : spriteBit rows r cc = true
          · by_cases hx : cx + cc < Config.screenW
            · have := hc hs hx; simp [show ¬ cy + r < Config.screenH by omega]
            · simp [hx]
          · simp only [Bool.not_eq_true] at hs; simp [hs]
        · congr 1
          by_cases h5 : cx ≤ a
          · by_cases h6 : cy ≤ b
            · have : ¬ (b - cy, a - cx) = (r, cc) := fun e => hab ⟨e, h5, h6⟩
              simp [List.mem_cons, this]
            · simp [h6]
          · simp [h5]
      · rw [i2]
        constructor
        · rintro (h | ⟨a, b, q1, q2, q3, q4, q5, q6, q7⟩)
          · exact .inl h
          · exact .inr ⟨a, b, q1, q2, q3, q4, by simp [q5], q6, q7⟩
        · rintro (h | ⟨a, b, q1, q2, q3, q4, q5, q6, q7⟩)
          · exact .inl h
          · rcases List.mem_cons.1 q5 with e | q5'
            · exfalso; apply hc
              simp only [Prod.mk.injEq] at e
              have e1 : cx + cc = a := by omega
              have e2 : cy + r = b := by omega
              rw [e1, e2, ← e.1, ← e.2, q6]; simp [q1, q2]
            · exact .inr ⟨a, b, q1, q2, q3, q4, q5', q6, q7⟩

/-- The blit visits no position twice. -/
theorem spritePositions_nodup (n : Nat) : (spritePositions n).Nodup := by
  unfold spritePositions
  rw [List.nodup_flatMap]
  refine ⟨fun r _ => (List.nodup_range).map fun a b h => by simpa using h, ?_⟩
  have := List.nodup_range (n := n)
  refine List.Pairwise.imp ?_ this
  intro a b hne
  simp only [Function.onFun, List.disjoint_left, List.mem_map]
  rintro x ⟨c, _, rfl⟩ ⟨c', _, h⟩
  simp at h; exact hne h.1.symm

theorem mem_spritePositions (n r c : Nat) : (r, c) ∈ spritePositions n ↔ r < n ∧ c < 8 := by
  simp [spritePositions]

/-- Everything a blit does: a pixel of the screen toggles exactly when the sprite covers it with a 1 bit, and the collision
is that some pixel went from 1 to 0 (R89, R90). -/
theorem blit_spec (cx cy : Nat) (rows : List Byte) (fb : Framebuffer) :
    (∀ a b, a < 64 → b < 32 → (blit cx cy rows fb).1.pixel a b =
      (fb.pixel a b ^^ (decide (cx ≤ a) && decide (a < cx + 8) && decide (cy ≤ b) &&
        decide (b < cy + rows.length) && spriteBit rows (b - cy) (a - cx)))) ∧
    ((blit cx cy rows fb).2 = true ↔
      ∃ a b, a < 64 ∧ b < 32 ∧ fb.pixel a b = true ∧ (blit cx cy rows fb).1.pixel a b = false) := by
  obtain ⟨h1, h2⟩ := blitLoop_spec cx cy rows (spritePositions rows.length) (spritePositions_nodup _) fb false
  have k1 : ∀ a b, a < 64 → b < 32 → (blit cx cy rows fb).1.pixel a b =
      (fb.pixel a b ^^ (decide (cx ≤ a) && decide (a < cx + 8) && decide (cy ≤ b) &&
        decide (b < cy + rows.length) && spriteBit rows (b - cy) (a - cx))) := by
    intro a b ha hb
    refine (h1 a b).trans ?_
    congr 1
    have e1 : a < Config.screenW := ha
    have e2 : b < Config.screenH := hb
    simp only [mem_spritePositions]
    by_cases q1 : cx ≤ a
    · by_cases q2 : cy ≤ b
      · have x1 : (b - cy < rows.length ∧ a - cx < 8) ↔ (b < cy + rows.length ∧ a < cx + 8) := by omega
        simp only [e1, e2, q1, q2, x1, decide_true, Bool.true_and, Bool.and_true, Bool.decide_and]
        rw [Bool.and_comm (decide (b < _))]
      · simp [q2]
    · simp [q1]
  refine ⟨k1, ?_⟩
  refine (show _ ↔ _ from h2).trans ?_
  simp only [Bool.false_eq_true, false_or]
  constructor
  · rintro ⟨a, b, q1, q2, q3, q4, q5, q6, q7⟩
    refine ⟨a, b, q1, q2, q7, ?_⟩
    rw [k1 a b q1 q2, q7, q6]
    rw [mem_spritePositions] at q5
    simp [q3, q4, show a < cx + 8 by omega, show b < cy + rows.length by omega]
  · rintro ⟨a, b, q1, q2, q3, q4⟩
    rw [k1 a b q1 q2, q3] at q4
    simp at q4
    exact ⟨a, b, q1, q2, q4.1.1.1.1, q4.1.1.2, by rw [mem_spritePositions]; omega, q4.2, q3⟩

end Sys2Proof.Machine
end

