-- ==== Sys2Proof/Laws/Memory.lean ====
section
/-! SUPPORT. Memory laws: what each memory operation does to a read, and that each keeps the canonical form. -/

namespace Sys2Proof.Machine

/-! ## Reads -/

@[simp] theorem Memory.read_nil (a : Nat) : Memory.read [] a = Memory.unlisted a := rfl

theorem Memory.read_cons (c : Host.Cell) (m : Memory) (a : Nat) :
    Memory.read (c :: m) a = if c.1 = a then c.2 else Memory.read m a := rfl

theorem Memory.read_insertCell (m : Memory) (a k : Nat) (b : Byte) :
    (Memory.insertCell a b m).read k = if a = k then b else m.read k := by
  induction m with
  | nil => rfl
  | cons c m ih =>
    simp only [Memory.insertCell]
    by_cases h1 : a < c.1
    · rw [if_pos h1]; rfl
    · rw [if_neg h1]
      by_cases h2 : a = c.1
      · rw [if_pos h2]
        simp only [Memory.read_cons, ← h2]
        split_ifs <;> rfl
      · rw [if_neg h2, Memory.read_cons, ih, Memory.read_cons]
        by_cases hk : c.1 = k
        · rw [if_pos hk, if_neg (by omega), if_pos hk]
        · rw [if_neg hk, if_neg hk]

theorem Memory.read_eraseCell (m : Memory) (a k : Nat) :
    (Memory.eraseCell a m).read k = if k = a then Memory.unlisted k else m.read k := by
  induction m with
  | nil => simp [Memory.eraseCell]
  | cons c m ih =>
    have step : Memory.eraseCell a (c :: m) = if c.1 = a then Memory.eraseCell a m else c :: Memory.eraseCell a m := by
      by_cases hc : c.1 = a <;> simp [Memory.eraseCell, hc]
    rw [step]
    by_cases hc : c.1 = a
    · rw [if_pos hc, ih, Memory.read_cons]
      by_cases h : k = a
      · rw [if_pos h, if_pos h]
      · rw [if_neg h, if_neg h, if_neg (by omega)]
    · rw [if_neg hc, Memory.read_cons, ih, Memory.read_cons]
      by_cases h : k = a
      · rw [if_pos h, if_pos h, if_neg (by omega)]
      · rw [if_neg h, if_neg h]

/-- A read after a write: the byte written at that address, every other byte as before (R54). -/
theorem Memory.read_write (m : Memory) (a k : Nat) (b : Byte) (ha : a < Config.memSize) :
    (m.write a b).read k = if k = a then b else m.read k := by
  simp only [Memory.write, ha, if_true]
  split_ifs with h1 h2
  · simp [Memory.read_eraseCell, h2, h1]
  · simp [Memory.read_eraseCell, h2]
  · rename_i h2; rw [Memory.read_insertCell, if_pos h2.symm]
  · rename_i h2; rw [Memory.read_insertCell, if_neg (fun e => h2 e.symm)]

/-- A write changes no other cell (R54). -/
theorem Memory.read_write_other (m : Memory) (a k : Nat) (b : Byte) (h : k ≠ a) : (m.write a b).read k = m.read k := by
  by_cases ha : a < Config.memSize
  · simp [Memory.read_write m a k b ha, h]
  · simp [Memory.write, ha]

/-- Bytes written in ascending order: the k-th at `a + k`, every other byte as before. -/
theorem Memory.read_writeBytes (bs : List Byte) (m : Memory) (a k : Nat) (h : a + bs.length ≤ Config.memSize) :
    (m.writeBytes a bs).read k = if a ≤ k ∧ k < a + bs.length then bs.getD (k - a) 0#8 else m.read k := by
  induction bs generalizing m a with
  | nil => simp [Memory.writeBytes]
  | cons b bs ih =>
    simp only [List.length_cons] at h
    rw [Memory.writeBytes, ih (m.write a b) (a + 1) (by omega), Memory.read_write m a k b (by omega)]
    rcases lt_trichotomy k a with hk | hk | hk
    · have h1 : ¬ (a + 1 ≤ k ∧ k < a + 1 + bs.length) := by omega
      have h2 : ¬ (a ≤ k ∧ k < a + (b :: bs).length) := by omega
      simp only [h1, h2, if_false, if_neg (show k ≠ a by omega)]
    · subst hk
      simp
    · have h1 : (a + 1 ≤ k ∧ k < a + 1 + bs.length) ↔ (a ≤ k ∧ k < a + (b :: bs).length) := by
        simp only [List.length_cons]; omega
      rw [show k - a = (k - (a + 1)) + 1 by omega]
      simp only [h1, List.getD_cons_succ, if_neg (show k ≠ a by omega)]

@[simp] theorem Memory.readBytes_length (m : Memory) (a n : Nat) : (m.readBytes a n).length = n := by
  simp [Memory.readBytes]

/-- The k-th of the bytes read. -/
theorem Memory.readBytes_getD (m : Memory) (a n k : Nat) (h : k < n) : (m.readBytes a n).getD k 0#8 = m.read (a + k) := by
  simp [Memory.readBytes, List.getD, h]

/-! ## The canonical form is kept -/

theorem Memory.wf_nil : Memory.wf [] := by simp [Memory.wf]

theorem Memory.mem_insertCell (m : Memory) (a : Nat) (b : Byte) (c : Host.Cell)
    (h : c ∈ Memory.insertCell a b m) : c = (a, b) ∨ c ∈ m := by
  induction m with
  | nil => simpa [Memory.insertCell] using h
  | cons d m ih =>
    simp only [Memory.insertCell] at h
    split_ifs at h with h1 h2
    · simpa using h
    · rcases List.mem_cons.1 h with h | h
      · exact .inl h
      · exact .inr (List.mem_cons_of_mem _ h)
    · rcases List.mem_cons.1 h with h | h
      · exact .inr (List.mem_cons.2 (.inl h))
      · exact (ih h).imp id (List.mem_cons_of_mem _)

theorem Memory.wf_write (m : Memory) (a : Nat) (b : Byte) (h : m.wf) : (m.write a b).wf := by
  by_cases ha : a < Config.memSize
  swap
  · simpa [Memory.write, ha] using h
  simp only [Memory.write, ha, if_true]
  split_ifs with hb
  · exact ⟨h.1.filter _, fun c hc => h.2 c (List.mem_of_mem_filter hc)⟩
  · refine ⟨?_, fun c hc => ?_⟩
    · have hs := h.1
      clear h
      induction m with
      | nil => simp [Memory.insertCell]
      | cons d m ih =>
        rw [List.pairwise_cons] at hs
        simp only [Memory.insertCell]
        split_ifs with h1 h2
        · rw [List.pairwise_cons, List.pairwise_cons]
          refine ⟨fun c hc => ?_, hs⟩
          rcases List.mem_cons.1 hc with hc | hc
          · subst hc; exact h1
          · exact lt_trans h1 (hs.1 c hc)
        · rw [List.pairwise_cons]
          exact ⟨fun c hc => h2 ▸ hs.1 c hc, hs.2⟩
        · rw [List.pairwise_cons]
          refine ⟨fun c hc => ?_, ih hs.2⟩
          rcases Memory.mem_insertCell m a b c hc with hc | hc
          · subst hc; show d.1 < a; omega
          · exact hs.1 c hc
    · rcases Memory.mem_insertCell m a b c hc with hc | hc
      · subst hc; exact ⟨ha, hb⟩
      · exact h.2 c hc

theorem Memory.wf_writeBytes (bs : List Byte) (m : Memory) (a : Nat) (h : m.wf) : (m.writeBytes a bs).wf := by
  induction bs generalizing m a with
  | nil => exact h
  | cons b bs ih => exact ih _ _ (m.wf_write a b h)

theorem bootMemory_wf (f : ResetFill) (rom : List Byte) (h : f.mem.wf) : (bootMemory f rom).wf :=
  Memory.wf_writeBytes _ _ _ (Memory.wf_writeBytes _ _ _ h)

theorem reset_mem_wf : State.reset.mem.wf := Memory.wf_nil

/-! ## The range check -/

/-- No fault means every one of the addresses exists (R47). -/
theorem rangeFault_eq_none (a n : Nat) : rangeFault a n = none ↔ n = 0 ∨ a + n ≤ Config.memSize := by
  unfold rangeFault
  split_ifs with h
  · simp; omega
  · simp; omega

/-- A fault carries the lowest address out of range (R47). -/
theorem rangeFault_eq_some (a n : Nat) (h : n ≠ 0) (h' : Config.memSize < a + n) :
    rangeFault a n = some (BitVec.ofNat 16 (max a Config.memSize)) := by
  simp [rangeFault, h, h']

end Sys2Proof.Machine
end

