-- ==== Sys2Proof/Laws/State.lean ====
section
/-! SUPPORT. What each named update of State does to each field, and to each register: true by unfolding once, so that no
later proof unfolds a record update. -/

namespace Sys2Proof.Machine

/-! ## One field per setter -/

@[simp] theorem State.setV_v (s : State) (a : Vector Byte 16) : (s.setV a).v = a := rfl
@[simp] theorem State.setV_i (s : State) (a : Vector Byte 16) : (s.setV a).i = s.i := rfl
@[simp] theorem State.setV_pc (s : State) (a : Vector Byte 16) : (s.setV a).pc = s.pc := rfl
@[simp] theorem State.setV_stack (s : State) (a : Vector Byte 16) : (s.setV a).stack = s.stack := rfl
@[simp] theorem State.setV_dtNs (s : State) (a : Vector Byte 16) : (s.setV a).dtNs = s.dtNs := rfl
@[simp] theorem State.setV_stNs (s : State) (a : Vector Byte 16) : (s.setV a).stNs = s.stNs := rfl
@[simp] theorem State.setV_mem (s : State) (a : Vector Byte 16) : (s.setV a).mem = s.mem := rfl
@[simp] theorem State.setV_fb (s : State) (a : Vector Byte 16) : (s.setV a).fb = s.fb := rfl
@[simp] theorem State.setV_playing (s : State) (a : Vector Byte 16) : (s.setV a).playing = s.playing := rfl
@[simp] theorem State.setV_accNs (s : State) (a : Vector Byte 16) : (s.setV a).accNs = s.accNs := rfl
@[simp] theorem State.setV_fault (s : State) (a : Vector Byte 16) : (s.setV a).fault = s.fault := rfl
@[simp] theorem State.setV_draws (s : State) (a : Vector Byte 16) : (s.setV a).draws = s.draws := rfl
@[simp] theorem State.setV_diagnostics (s : State) (a : Vector Byte 16) : (s.setV a).diagnostics = s.diagnostics := rfl

@[simp] theorem State.setI_v (s : State) (a : Word) : (s.setI a).v = s.v := rfl
@[simp] theorem State.setI_i (s : State) (a : Word) : (s.setI a).i = a := rfl
@[simp] theorem State.setI_pc (s : State) (a : Word) : (s.setI a).pc = s.pc := rfl
@[simp] theorem State.setI_stack (s : State) (a : Word) : (s.setI a).stack = s.stack := rfl
@[simp] theorem State.setI_dtNs (s : State) (a : Word) : (s.setI a).dtNs = s.dtNs := rfl
@[simp] theorem State.setI_stNs (s : State) (a : Word) : (s.setI a).stNs = s.stNs := rfl
@[simp] theorem State.setI_mem (s : State) (a : Word) : (s.setI a).mem = s.mem := rfl
@[simp] theorem State.setI_fb (s : State) (a : Word) : (s.setI a).fb = s.fb := rfl
@[simp] theorem State.setI_playing (s : State) (a : Word) : (s.setI a).playing = s.playing := rfl
@[simp] theorem State.setI_accNs (s : State) (a : Word) : (s.setI a).accNs = s.accNs := rfl
@[simp] theorem State.setI_fault (s : State) (a : Word) : (s.setI a).fault = s.fault := rfl
@[simp] theorem State.setI_draws (s : State) (a : Word) : (s.setI a).draws = s.draws := rfl
@[simp] theorem State.setI_diagnostics (s : State) (a : Word) : (s.setI a).diagnostics = s.diagnostics := rfl
@[simp] theorem State.setI_reg (s : State) (a : Word) (x : RegIdx) : (s.setI a).reg x = s.reg x := rfl

@[simp] theorem State.setPc_v (s : State) (a : Word) : (s.setPc a).v = s.v := rfl
@[simp] theorem State.setPc_i (s : State) (a : Word) : (s.setPc a).i = s.i := rfl
@[simp] theorem State.setPc_pc (s : State) (a : Word) : (s.setPc a).pc = a := rfl
@[simp] theorem State.setPc_stack (s : State) (a : Word) : (s.setPc a).stack = s.stack := rfl
@[simp] theorem State.setPc_dtNs (s : State) (a : Word) : (s.setPc a).dtNs = s.dtNs := rfl
@[simp] theorem State.setPc_stNs (s : State) (a : Word) : (s.setPc a).stNs = s.stNs := rfl
@[simp] theorem State.setPc_mem (s : State) (a : Word) : (s.setPc a).mem = s.mem := rfl
@[simp] theorem State.setPc_fb (s : State) (a : Word) : (s.setPc a).fb = s.fb := rfl
@[simp] theorem State.setPc_playing (s : State) (a : Word) : (s.setPc a).playing = s.playing := rfl
@[simp] theorem State.setPc_accNs (s : State) (a : Word) : (s.setPc a).accNs = s.accNs := rfl
@[simp] theorem State.setPc_fault (s : State) (a : Word) : (s.setPc a).fault = s.fault := rfl
@[simp] theorem State.setPc_draws (s : State) (a : Word) : (s.setPc a).draws = s.draws := rfl
@[simp] theorem State.setPc_diagnostics (s : State) (a : Word) : (s.setPc a).diagnostics = s.diagnostics := rfl
@[simp] theorem State.setPc_reg (s : State) (a : Word) (x : RegIdx) : (s.setPc a).reg x = s.reg x := rfl

@[simp] theorem State.setStack_v (s : State) (a : List Word) : (s.setStack a).v = s.v := rfl
@[simp] theorem State.setStack_i (s : State) (a : List Word) : (s.setStack a).i = s.i := rfl
@[simp] theorem State.setStack_pc (s : State) (a : List Word) : (s.setStack a).pc = s.pc := rfl
@[simp] theorem State.setStack_stack (s : State) (a : List Word) : (s.setStack a).stack = a := rfl
@[simp] theorem State.setStack_dtNs (s : State) (a : List Word) : (s.setStack a).dtNs = s.dtNs := rfl
@[simp] theorem State.setStack_stNs (s : State) (a : List Word) : (s.setStack a).stNs = s.stNs := rfl
@[simp] theorem State.setStack_mem (s : State) (a : List Word) : (s.setStack a).mem = s.mem := rfl
@[simp] theorem State.setStack_fb (s : State) (a : List Word) : (s.setStack a).fb = s.fb := rfl
@[simp] theorem State.setStack_playing (s : State) (a : List Word) : (s.setStack a).playing = s.playing := rfl
@[simp] theorem State.setStack_accNs (s : State) (a : List Word) : (s.setStack a).accNs = s.accNs := rfl
@[simp] theorem State.setStack_fault (s : State) (a : List Word) : (s.setStack a).fault = s.fault := rfl
@[simp] theorem State.setStack_draws (s : State) (a : List Word) : (s.setStack a).draws = s.draws := rfl
@[simp] theorem State.setStack_diagnostics (s : State) (a : List Word) : (s.setStack a).diagnostics = s.diagnostics := rfl
@[simp] theorem State.setStack_reg (s : State) (a : List Word) (x : RegIdx) : (s.setStack a).reg x = s.reg x := rfl

@[simp] theorem State.setDt_v (s : State) (a : Nat) : (s.setDt a).v = s.v := rfl
@[simp] theorem State.setDt_i (s : State) (a : Nat) : (s.setDt a).i = s.i := rfl
@[simp] theorem State.setDt_pc (s : State) (a : Nat) : (s.setDt a).pc = s.pc := rfl
@[simp] theorem State.setDt_stack (s : State) (a : Nat) : (s.setDt a).stack = s.stack := rfl
@[simp] theorem State.setDt_dtNs (s : State) (a : Nat) : (s.setDt a).dtNs = a := rfl
@[simp] theorem State.setDt_stNs (s : State) (a : Nat) : (s.setDt a).stNs = s.stNs := rfl
@[simp] theorem State.setDt_mem (s : State) (a : Nat) : (s.setDt a).mem = s.mem := rfl
@[simp] theorem State.setDt_fb (s : State) (a : Nat) : (s.setDt a).fb = s.fb := rfl
@[simp] theorem State.setDt_playing (s : State) (a : Nat) : (s.setDt a).playing = s.playing := rfl
@[simp] theorem State.setDt_accNs (s : State) (a : Nat) : (s.setDt a).accNs = s.accNs := rfl
@[simp] theorem State.setDt_fault (s : State) (a : Nat) : (s.setDt a).fault = s.fault := rfl
@[simp] theorem State.setDt_draws (s : State) (a : Nat) : (s.setDt a).draws = s.draws := rfl
@[simp] theorem State.setDt_diagnostics (s : State) (a : Nat) : (s.setDt a).diagnostics = s.diagnostics := rfl
@[simp] theorem State.setDt_reg (s : State) (a : Nat) (x : RegIdx) : (s.setDt a).reg x = s.reg x := rfl

@[simp] theorem State.setSt_v (s : State) (a : Nat) : (s.setSt a).v = s.v := rfl
@[simp] theorem State.setSt_i (s : State) (a : Nat) : (s.setSt a).i = s.i := rfl
@[simp] theorem State.setSt_pc (s : State) (a : Nat) : (s.setSt a).pc = s.pc := rfl
@[simp] theorem State.setSt_stack (s : State) (a : Nat) : (s.setSt a).stack = s.stack := rfl
@[simp] theorem State.setSt_dtNs (s : State) (a : Nat) : (s.setSt a).dtNs = s.dtNs := rfl
@[simp] theorem State.setSt_stNs (s : State) (a : Nat) : (s.setSt a).stNs = a := rfl
@[simp] theorem State.setSt_mem (s : State) (a : Nat) : (s.setSt a).mem = s.mem := rfl
@[simp] theorem State.setSt_fb (s : State) (a : Nat) : (s.setSt a).fb = s.fb := rfl
@[simp] theorem State.setSt_playing (s : State) (a : Nat) : (s.setSt a).playing = s.playing := rfl
@[simp] theorem State.setSt_accNs (s : State) (a : Nat) : (s.setSt a).accNs = s.accNs := rfl
@[simp] theorem State.setSt_fault (s : State) (a : Nat) : (s.setSt a).fault = s.fault := rfl
@[simp] theorem State.setSt_draws (s : State) (a : Nat) : (s.setSt a).draws = s.draws := rfl
@[simp] theorem State.setSt_diagnostics (s : State) (a : Nat) : (s.setSt a).diagnostics = s.diagnostics := rfl
@[simp] theorem State.setSt_reg (s : State) (a : Nat) (x : RegIdx) : (s.setSt a).reg x = s.reg x := rfl

@[simp] theorem State.setMem_v (s : State) (a : Memory) : (s.setMem a).v = s.v := rfl
@[simp] theorem State.setMem_i (s : State) (a : Memory) : (s.setMem a).i = s.i := rfl
@[simp] theorem State.setMem_pc (s : State) (a : Memory) : (s.setMem a).pc = s.pc := rfl
@[simp] theorem State.setMem_stack (s : State) (a : Memory) : (s.setMem a).stack = s.stack := rfl
@[simp] theorem State.setMem_dtNs (s : State) (a : Memory) : (s.setMem a).dtNs = s.dtNs := rfl
@[simp] theorem State.setMem_stNs (s : State) (a : Memory) : (s.setMem a).stNs = s.stNs := rfl
@[simp] theorem State.setMem_mem (s : State) (a : Memory) : (s.setMem a).mem = a := rfl
@[simp] theorem State.setMem_fb (s : State) (a : Memory) : (s.setMem a).fb = s.fb := rfl
@[simp] theorem State.setMem_playing (s : State) (a : Memory) : (s.setMem a).playing = s.playing := rfl
@[simp] theorem State.setMem_accNs (s : State) (a : Memory) : (s.setMem a).accNs = s.accNs := rfl
@[simp] theorem State.setMem_fault (s : State) (a : Memory) : (s.setMem a).fault = s.fault := rfl
@[simp] theorem State.setMem_draws (s : State) (a : Memory) : (s.setMem a).draws = s.draws := rfl
@[simp] theorem State.setMem_diagnostics (s : State) (a : Memory) : (s.setMem a).diagnostics = s.diagnostics := rfl
@[simp] theorem State.setMem_reg (s : State) (a : Memory) (x : RegIdx) : (s.setMem a).reg x = s.reg x := rfl

@[simp] theorem State.setFb_v (s : State) (a : Framebuffer) : (s.setFb a).v = s.v := rfl
@[simp] theorem State.setFb_i (s : State) (a : Framebuffer) : (s.setFb a).i = s.i := rfl
@[simp] theorem State.setFb_pc (s : State) (a : Framebuffer) : (s.setFb a).pc = s.pc := rfl
@[simp] theorem State.setFb_stack (s : State) (a : Framebuffer) : (s.setFb a).stack = s.stack := rfl
@[simp] theorem State.setFb_dtNs (s : State) (a : Framebuffer) : (s.setFb a).dtNs = s.dtNs := rfl
@[simp] theorem State.setFb_stNs (s : State) (a : Framebuffer) : (s.setFb a).stNs = s.stNs := rfl
@[simp] theorem State.setFb_mem (s : State) (a : Framebuffer) : (s.setFb a).mem = s.mem := rfl
@[simp] theorem State.setFb_fb (s : State) (a : Framebuffer) : (s.setFb a).fb = a := rfl
@[simp] theorem State.setFb_playing (s : State) (a : Framebuffer) : (s.setFb a).playing = s.playing := rfl
@[simp] theorem State.setFb_accNs (s : State) (a : Framebuffer) : (s.setFb a).accNs = s.accNs := rfl
@[simp] theorem State.setFb_fault (s : State) (a : Framebuffer) : (s.setFb a).fault = s.fault := rfl
@[simp] theorem State.setFb_draws (s : State) (a : Framebuffer) : (s.setFb a).draws = s.draws := rfl
@[simp] theorem State.setFb_diagnostics (s : State) (a : Framebuffer) : (s.setFb a).diagnostics = s.diagnostics := rfl
@[simp] theorem State.setFb_reg (s : State) (a : Framebuffer) (x : RegIdx) : (s.setFb a).reg x = s.reg x := rfl

@[simp] theorem State.setPlaying_v (s : State) (a : Bool) : (s.setPlaying a).v = s.v := rfl
@[simp] theorem State.setPlaying_i (s : State) (a : Bool) : (s.setPlaying a).i = s.i := rfl
@[simp] theorem State.setPlaying_pc (s : State) (a : Bool) : (s.setPlaying a).pc = s.pc := rfl
@[simp] theorem State.setPlaying_stack (s : State) (a : Bool) : (s.setPlaying a).stack = s.stack := rfl
@[simp] theorem State.setPlaying_dtNs (s : State) (a : Bool) : (s.setPlaying a).dtNs = s.dtNs := rfl
@[simp] theorem State.setPlaying_stNs (s : State) (a : Bool) : (s.setPlaying a).stNs = s.stNs := rfl
@[simp] theorem State.setPlaying_mem (s : State) (a : Bool) : (s.setPlaying a).mem = s.mem := rfl
@[simp] theorem State.setPlaying_fb (s : State) (a : Bool) : (s.setPlaying a).fb = s.fb := rfl
@[simp] theorem State.setPlaying_playing (s : State) (a : Bool) : (s.setPlaying a).playing = a := rfl
@[simp] theorem State.setPlaying_accNs (s : State) (a : Bool) : (s.setPlaying a).accNs = s.accNs := rfl
@[simp] theorem State.setPlaying_fault (s : State) (a : Bool) : (s.setPlaying a).fault = s.fault := rfl
@[simp] theorem State.setPlaying_draws (s : State) (a : Bool) : (s.setPlaying a).draws = s.draws := rfl
@[simp] theorem State.setPlaying_diagnostics (s : State) (a : Bool) : (s.setPlaying a).diagnostics = s.diagnostics := rfl
@[simp] theorem State.setPlaying_reg (s : State) (a : Bool) (x : RegIdx) : (s.setPlaying a).reg x = s.reg x := rfl

@[simp] theorem State.setAcc_v (s : State) (a : Nat) : (s.setAcc a).v = s.v := rfl
@[simp] theorem State.setAcc_i (s : State) (a : Nat) : (s.setAcc a).i = s.i := rfl
@[simp] theorem State.setAcc_pc (s : State) (a : Nat) : (s.setAcc a).pc = s.pc := rfl
@[simp] theorem State.setAcc_stack (s : State) (a : Nat) : (s.setAcc a).stack = s.stack := rfl
@[simp] theorem State.setAcc_dtNs (s : State) (a : Nat) : (s.setAcc a).dtNs = s.dtNs := rfl
@[simp] theorem State.setAcc_stNs (s : State) (a : Nat) : (s.setAcc a).stNs = s.stNs := rfl
@[simp] theorem State.setAcc_mem (s : State) (a : Nat) : (s.setAcc a).mem = s.mem := rfl
@[simp] theorem State.setAcc_fb (s : State) (a : Nat) : (s.setAcc a).fb = s.fb := rfl
@[simp] theorem State.setAcc_playing (s : State) (a : Nat) : (s.setAcc a).playing = s.playing := rfl
@[simp] theorem State.setAcc_accNs (s : State) (a : Nat) : (s.setAcc a).accNs = a := rfl
@[simp] theorem State.setAcc_fault (s : State) (a : Nat) : (s.setAcc a).fault = s.fault := rfl
@[simp] theorem State.setAcc_draws (s : State) (a : Nat) : (s.setAcc a).draws = s.draws := rfl
@[simp] theorem State.setAcc_diagnostics (s : State) (a : Nat) : (s.setAcc a).diagnostics = s.diagnostics := rfl
@[simp] theorem State.setAcc_reg (s : State) (a : Nat) (x : RegIdx) : (s.setAcc a).reg x = s.reg x := rfl

@[simp] theorem State.setFault_v (s : State) (a : Option FaultRecord) : (s.setFault a).v = s.v := rfl
@[simp] theorem State.setFault_i (s : State) (a : Option FaultRecord) : (s.setFault a).i = s.i := rfl
@[simp] theorem State.setFault_pc (s : State) (a : Option FaultRecord) : (s.setFault a).pc = s.pc := rfl
@[simp] theorem State.setFault_stack (s : State) (a : Option FaultRecord) : (s.setFault a).stack = s.stack := rfl
@[simp] theorem State.setFault_dtNs (s : State) (a : Option FaultRecord) : (s.setFault a).dtNs = s.dtNs := rfl
@[simp] theorem State.setFault_stNs (s : State) (a : Option FaultRecord) : (s.setFault a).stNs = s.stNs := rfl
@[simp] theorem State.setFault_mem (s : State) (a : Option FaultRecord) : (s.setFault a).mem = s.mem := rfl
@[simp] theorem State.setFault_fb (s : State) (a : Option FaultRecord) : (s.setFault a).fb = s.fb := rfl
@[simp] theorem State.setFault_playing (s : State) (a : Option FaultRecord) : (s.setFault a).playing = s.playing := rfl
@[simp] theorem State.setFault_accNs (s : State) (a : Option FaultRecord) : (s.setFault a).accNs = s.accNs := rfl
@[simp] theorem State.setFault_fault (s : State) (a : Option FaultRecord) : (s.setFault a).fault = a := rfl
@[simp] theorem State.setFault_draws (s : State) (a : Option FaultRecord) : (s.setFault a).draws = s.draws := rfl
@[simp] theorem State.setFault_diagnostics (s : State) (a : Option FaultRecord) : (s.setFault a).diagnostics = s.diagnostics := rfl
@[simp] theorem State.setFault_reg (s : State) (a : Option FaultRecord) (x : RegIdx) : (s.setFault a).reg x = s.reg x := rfl

@[simp] theorem State.setDraws_v (s : State) (a : Nat) : (s.setDraws a).v = s.v := rfl
@[simp] theorem State.setDraws_i (s : State) (a : Nat) : (s.setDraws a).i = s.i := rfl
@[simp] theorem State.setDraws_pc (s : State) (a : Nat) : (s.setDraws a).pc = s.pc := rfl
@[simp] theorem State.setDraws_stack (s : State) (a : Nat) : (s.setDraws a).stack = s.stack := rfl
@[simp] theorem State.setDraws_dtNs (s : State) (a : Nat) : (s.setDraws a).dtNs = s.dtNs := rfl
@[simp] theorem State.setDraws_stNs (s : State) (a : Nat) : (s.setDraws a).stNs = s.stNs := rfl
@[simp] theorem State.setDraws_mem (s : State) (a : Nat) : (s.setDraws a).mem = s.mem := rfl
@[simp] theorem State.setDraws_fb (s : State) (a : Nat) : (s.setDraws a).fb = s.fb := rfl
@[simp] theorem State.setDraws_playing (s : State) (a : Nat) : (s.setDraws a).playing = s.playing := rfl
@[simp] theorem State.setDraws_accNs (s : State) (a : Nat) : (s.setDraws a).accNs = s.accNs := rfl
@[simp] theorem State.setDraws_fault (s : State) (a : Nat) : (s.setDraws a).fault = s.fault := rfl
@[simp] theorem State.setDraws_draws (s : State) (a : Nat) : (s.setDraws a).draws = a := rfl
@[simp] theorem State.setDraws_diagnostics (s : State) (a : Nat) : (s.setDraws a).diagnostics = s.diagnostics := rfl
@[simp] theorem State.setDraws_reg (s : State) (a : Nat) (x : RegIdx) : (s.setDraws a).reg x = s.reg x := rfl

@[simp] theorem State.setDiagnostics_v (s : State) (a : List Diagnostic) : (s.setDiagnostics a).v = s.v := rfl
@[simp] theorem State.setDiagnostics_i (s : State) (a : List Diagnostic) : (s.setDiagnostics a).i = s.i := rfl
@[simp] theorem State.setDiagnostics_pc (s : State) (a : List Diagnostic) : (s.setDiagnostics a).pc = s.pc := rfl
@[simp] theorem State.setDiagnostics_stack (s : State) (a : List Diagnostic) : (s.setDiagnostics a).stack = s.stack := rfl
@[simp] theorem State.setDiagnostics_dtNs (s : State) (a : List Diagnostic) : (s.setDiagnostics a).dtNs = s.dtNs := rfl
@[simp] theorem State.setDiagnostics_stNs (s : State) (a : List Diagnostic) : (s.setDiagnostics a).stNs = s.stNs := rfl
@[simp] theorem State.setDiagnostics_mem (s : State) (a : List Diagnostic) : (s.setDiagnostics a).mem = s.mem := rfl
@[simp] theorem State.setDiagnostics_fb (s : State) (a : List Diagnostic) : (s.setDiagnostics a).fb = s.fb := rfl
@[simp] theorem State.setDiagnostics_playing (s : State) (a : List Diagnostic) : (s.setDiagnostics a).playing = s.playing := rfl
@[simp] theorem State.setDiagnostics_accNs (s : State) (a : List Diagnostic) : (s.setDiagnostics a).accNs = s.accNs := rfl
@[simp] theorem State.setDiagnostics_fault (s : State) (a : List Diagnostic) : (s.setDiagnostics a).fault = s.fault := rfl
@[simp] theorem State.setDiagnostics_draws (s : State) (a : List Diagnostic) : (s.setDiagnostics a).draws = s.draws := rfl
@[simp] theorem State.setDiagnostics_diagnostics (s : State) (a : List Diagnostic) : (s.setDiagnostics a).diagnostics = a := rfl
@[simp] theorem State.setDiagnostics_reg (s : State) (a : List Diagnostic) (x : RegIdx) : (s.setDiagnostics a).reg x = s.reg x := rfl

/-! ## Composed updates -/

@[simp] theorem State.setReg_v (s : State) (x : RegIdx) (a : Byte) : (s.setReg x a).v = s.v.set x.toNat a x.isLt := rfl
@[simp] theorem State.setReg_i (s : State) (x : RegIdx) (a : Byte) : (s.setReg x a).i = s.i := rfl
@[simp] theorem State.setReg_pc (s : State) (x : RegIdx) (a : Byte) : (s.setReg x a).pc = s.pc := rfl
@[simp] theorem State.setReg_stack (s : State) (x : RegIdx) (a : Byte) : (s.setReg x a).stack = s.stack := rfl
@[simp] theorem State.setReg_dtNs (s : State) (x : RegIdx) (a : Byte) : (s.setReg x a).dtNs = s.dtNs := rfl
@[simp] theorem State.setReg_stNs (s : State) (x : RegIdx) (a : Byte) : (s.setReg x a).stNs = s.stNs := rfl
@[simp] theorem State.setReg_mem (s : State) (x : RegIdx) (a : Byte) : (s.setReg x a).mem = s.mem := rfl
@[simp] theorem State.setReg_fb (s : State) (x : RegIdx) (a : Byte) : (s.setReg x a).fb = s.fb := rfl
@[simp] theorem State.setReg_playing (s : State) (x : RegIdx) (a : Byte) : (s.setReg x a).playing = s.playing := rfl
@[simp] theorem State.setReg_accNs (s : State) (x : RegIdx) (a : Byte) : (s.setReg x a).accNs = s.accNs := rfl
@[simp] theorem State.setReg_fault (s : State) (x : RegIdx) (a : Byte) : (s.setReg x a).fault = s.fault := rfl
@[simp] theorem State.setReg_draws (s : State) (x : RegIdx) (a : Byte) : (s.setReg x a).draws = s.draws := rfl
@[simp] theorem State.setReg_diagnostics (s : State) (x : RegIdx) (a : Byte) : (s.setReg x a).diagnostics = s.diagnostics := rfl

@[simp] theorem State.advance_v (s : State) : s.advance.v = s.v := rfl
@[simp] theorem State.advance_i (s : State) : s.advance.i = s.i := rfl
@[simp] theorem State.advance_pc (s : State) : s.advance.pc = s.pc + 2#16 := rfl
@[simp] theorem State.advance_stack (s : State) : s.advance.stack = s.stack := rfl
@[simp] theorem State.advance_dtNs (s : State) : s.advance.dtNs = s.dtNs := rfl
@[simp] theorem State.advance_stNs (s : State) : s.advance.stNs = s.stNs := rfl
@[simp] theorem State.advance_mem (s : State) : s.advance.mem = s.mem := rfl
@[simp] theorem State.advance_fb (s : State) : s.advance.fb = s.fb := rfl
@[simp] theorem State.advance_playing (s : State) : s.advance.playing = s.playing := rfl
@[simp] theorem State.advance_accNs (s : State) : s.advance.accNs = s.accNs := rfl
@[simp] theorem State.advance_fault (s : State) : s.advance.fault = s.fault := rfl
@[simp] theorem State.advance_draws (s : State) : s.advance.draws = s.draws := rfl
@[simp] theorem State.advance_diagnostics (s : State) : s.advance.diagnostics = s.diagnostics := rfl
@[simp] theorem State.advance_reg (s : State) (r : RegIdx) : s.advance.reg r = s.reg r := rfl

@[simp] theorem State.skipIf_v (s : State) (c : Bool) : (s.skipIf c).v = s.v := rfl
@[simp] theorem State.skipIf_i (s : State) (c : Bool) : (s.skipIf c).i = s.i := rfl
@[simp] theorem State.skipIf_pc (s : State) (c : Bool) : (s.skipIf c).pc = s.pc + if c then 4#16 else 2#16 := rfl
@[simp] theorem State.skipIf_stack (s : State) (c : Bool) : (s.skipIf c).stack = s.stack := rfl
@[simp] theorem State.skipIf_dtNs (s : State) (c : Bool) : (s.skipIf c).dtNs = s.dtNs := rfl
@[simp] theorem State.skipIf_stNs (s : State) (c : Bool) : (s.skipIf c).stNs = s.stNs := rfl
@[simp] theorem State.skipIf_mem (s : State) (c : Bool) : (s.skipIf c).mem = s.mem := rfl
@[simp] theorem State.skipIf_fb (s : State) (c : Bool) : (s.skipIf c).fb = s.fb := rfl
@[simp] theorem State.skipIf_playing (s : State) (c : Bool) : (s.skipIf c).playing = s.playing := rfl
@[simp] theorem State.skipIf_accNs (s : State) (c : Bool) : (s.skipIf c).accNs = s.accNs := rfl
@[simp] theorem State.skipIf_fault (s : State) (c : Bool) : (s.skipIf c).fault = s.fault := rfl
@[simp] theorem State.skipIf_draws (s : State) (c : Bool) : (s.skipIf c).draws = s.draws := rfl
@[simp] theorem State.skipIf_diagnostics (s : State) (c : Bool) : (s.skipIf c).diagnostics = s.diagnostics := rfl
@[simp] theorem State.skipIf_reg (s : State) (c : Bool) (r : RegIdx) : (s.skipIf c).reg r = s.reg r := rfl

@[simp] theorem State.nextDraw_v (s : State) : s.nextDraw.v = s.v := rfl
@[simp] theorem State.nextDraw_i (s : State) : s.nextDraw.i = s.i := rfl
@[simp] theorem State.nextDraw_pc (s : State) : s.nextDraw.pc = s.pc := rfl
@[simp] theorem State.nextDraw_stack (s : State) : s.nextDraw.stack = s.stack := rfl
@[simp] theorem State.nextDraw_dtNs (s : State) : s.nextDraw.dtNs = s.dtNs := rfl
@[simp] theorem State.nextDraw_stNs (s : State) : s.nextDraw.stNs = s.stNs := rfl
@[simp] theorem State.nextDraw_mem (s : State) : s.nextDraw.mem = s.mem := rfl
@[simp] theorem State.nextDraw_fb (s : State) : s.nextDraw.fb = s.fb := rfl
@[simp] theorem State.nextDraw_playing (s : State) : s.nextDraw.playing = s.playing := rfl
@[simp] theorem State.nextDraw_accNs (s : State) : s.nextDraw.accNs = s.accNs := rfl
@[simp] theorem State.nextDraw_fault (s : State) : s.nextDraw.fault = s.fault := rfl
@[simp] theorem State.nextDraw_draws (s : State) : s.nextDraw.draws = s.draws + 1 := rfl
@[simp] theorem State.nextDraw_diagnostics (s : State) : s.nextDraw.diagnostics = s.diagnostics := rfl
@[simp] theorem State.nextDraw_reg (s : State) (r : RegIdx) : s.nextDraw.reg r = s.reg r := rfl

@[simp] theorem State.push_v (s : State) (a : Word) : (s.push a).v = s.v := rfl
@[simp] theorem State.push_i (s : State) (a : Word) : (s.push a).i = s.i := rfl
@[simp] theorem State.push_pc (s : State) (a : Word) : (s.push a).pc = s.pc := rfl
@[simp] theorem State.push_stack (s : State) (a : Word) : (s.push a).stack = s.stack ++ [a] := rfl
@[simp] theorem State.push_dtNs (s : State) (a : Word) : (s.push a).dtNs = s.dtNs := rfl
@[simp] theorem State.push_stNs (s : State) (a : Word) : (s.push a).stNs = s.stNs := rfl
@[simp] theorem State.push_mem (s : State) (a : Word) : (s.push a).mem = s.mem := rfl
@[simp] theorem State.push_fb (s : State) (a : Word) : (s.push a).fb = s.fb := rfl
@[simp] theorem State.push_playing (s : State) (a : Word) : (s.push a).playing = s.playing := rfl
@[simp] theorem State.push_accNs (s : State) (a : Word) : (s.push a).accNs = s.accNs := rfl
@[simp] theorem State.push_fault (s : State) (a : Word) : (s.push a).fault = s.fault := rfl
@[simp] theorem State.push_draws (s : State) (a : Word) : (s.push a).draws = s.draws := rfl
@[simp] theorem State.push_diagnostics (s : State) (a : Word) : (s.push a).diagnostics = s.diagnostics := rfl
@[simp] theorem State.push_reg (s : State) (a : Word) (r : RegIdx) : (s.push a).reg r = s.reg r := rfl

@[simp] theorem State.bumpIndex_v (s : State) (x : RegIdx) : (s.bumpIndex x).v = s.v := rfl
@[simp] theorem State.bumpIndex_i (s : State) (x : RegIdx) : (s.bumpIndex x).i = BitVec.ofNat 16 (baseAddress s + rangeCount x) := rfl
@[simp] theorem State.bumpIndex_pc (s : State) (x : RegIdx) : (s.bumpIndex x).pc = s.pc := rfl
@[simp] theorem State.bumpIndex_stack (s : State) (x : RegIdx) : (s.bumpIndex x).stack = s.stack := rfl
@[simp] theorem State.bumpIndex_dtNs (s : State) (x : RegIdx) : (s.bumpIndex x).dtNs = s.dtNs := rfl
@[simp] theorem State.bumpIndex_stNs (s : State) (x : RegIdx) : (s.bumpIndex x).stNs = s.stNs := rfl
@[simp] theorem State.bumpIndex_mem (s : State) (x : RegIdx) : (s.bumpIndex x).mem = s.mem := rfl
@[simp] theorem State.bumpIndex_fb (s : State) (x : RegIdx) : (s.bumpIndex x).fb = s.fb := rfl
@[simp] theorem State.bumpIndex_playing (s : State) (x : RegIdx) : (s.bumpIndex x).playing = s.playing := rfl
@[simp] theorem State.bumpIndex_accNs (s : State) (x : RegIdx) : (s.bumpIndex x).accNs = s.accNs := rfl
@[simp] theorem State.bumpIndex_fault (s : State) (x : RegIdx) : (s.bumpIndex x).fault = s.fault := rfl
@[simp] theorem State.bumpIndex_draws (s : State) (x : RegIdx) : (s.bumpIndex x).draws = s.draws := rfl
@[simp] theorem State.bumpIndex_diagnostics (s : State) (x : RegIdx) : (s.bumpIndex x).diagnostics = s.diagnostics := rfl
@[simp] theorem State.bumpIndex_reg (s : State) (x : RegIdx) (r : RegIdx) : (s.bumpIndex x).reg r = s.reg r := rfl

@[simp] theorem State.emit_v (s : State) (w : Word) : (s.emit w).v = s.v := rfl
@[simp] theorem State.emit_i (s : State) (w : Word) : (s.emit w).i = s.i := rfl
@[simp] theorem State.emit_pc (s : State) (w : Word) : (s.emit w).pc = s.pc := rfl
@[simp] theorem State.emit_stack (s : State) (w : Word) : (s.emit w).stack = s.stack := rfl
@[simp] theorem State.emit_dtNs (s : State) (w : Word) : (s.emit w).dtNs = s.dtNs := rfl
@[simp] theorem State.emit_stNs (s : State) (w : Word) : (s.emit w).stNs = s.stNs := rfl
@[simp] theorem State.emit_mem (s : State) (w : Word) : (s.emit w).mem = s.mem := rfl
@[simp] theorem State.emit_fb (s : State) (w : Word) : (s.emit w).fb = s.fb := rfl
@[simp] theorem State.emit_playing (s : State) (w : Word) : (s.emit w).playing = s.playing := rfl
@[simp] theorem State.emit_accNs (s : State) (w : Word) : (s.emit w).accNs = s.accNs := rfl
@[simp] theorem State.emit_fault (s : State) (w : Word) : (s.emit w).fault = s.fault := rfl
@[simp] theorem State.emit_draws (s : State) (w : Word) : (s.emit w).draws = s.draws := rfl
@[simp] theorem State.emit_diagnostics (s : State) (w : Word) : (s.emit w).diagnostics = { pc := s.pc, word := w } :: s.diagnostics := rfl
@[simp] theorem State.emit_reg (s : State) (w : Word) (r : RegIdx) : (s.emit w).reg r = s.reg r := rfl

/-! ## Registers -/

/-- A register read after a write: the value written, or the register's own value (R20). -/
theorem State.reg_setReg (s : State) (x r : RegIdx) (a : Byte) : (s.setReg x a).reg r = if r = x then a else s.reg r := by
  simp only [State.reg, State.setReg, State.setV, Vector.getElem_set, BitVec.toNat_inj]
  by_cases h : x = r <;> simp [h, eq_comm]

@[simp] theorem State.reg_setReg_same (s : State) (x : RegIdx) (a : Byte) : (s.setReg x a).reg x = a := by
  simp [State.reg_setReg]

theorem State.reg_setReg_other (s : State) (x r : RegIdx) (a : Byte) (h : r ≠ x) : (s.setReg x a).reg r = s.reg r := by
  simp [State.reg_setReg, h]

end Sys2Proof.Machine
end

