-- ==== Sys2Proof/Laws/Ops.lean ====
section
/-! SUPPORT. One lemma for each shared operation that says what it does, for proofs to cite in place of unfolding it. -/

namespace Sys2Proof.Machine

/-! ## Faults -/

/-- `raise` answers the state with the fault register set (R137). -/
theorem raiseFault_eq (c : FaultCause) (w : Option Word) (info : Word) (s : State) :
    raiseFault c w info s = .next (s.setFault (some ⟨c, s.pc, w, info⟩)) := rfl

theorem raiseIn_eq (i : Instr) (c : FaultCause) (info : Word) (s : State) :
    raiseIn i c info s = .next (s.setFault (some ⟨c, s.pc, some (encode i), info⟩)) := rfl

/-- A failed range check, inverted: some address is out of range, and the info is the lowest of them (R47). -/
theorem rangeFault_inv (a n : Nat) (w : Word) (h : rangeFault a n = some w) :
    n ≠ 0 ∧ 4096 < a + n ∧ w = BitVec.ofNat 16 (max a Config.memSize) := by
  unfold rangeFault at h
  split_ifs at h with h1
  exact ⟨h1.1, h1.2, (Option.some.inj h).symm⟩

/-- The info of a memory or fetch fault fits in its 16 bits (R47, R67). -/
theorem toNat_info (a : Word) : (BitVec.ofNat 16 (max a.toNat Config.memSize)).toNat = max a.toNat 4096 := by
  have := a.isLt
  simp only [BitVec.toNat_ofNat, Config.memSize]
  omega

/-! ## Program counter -/

/-- The advance by 2 does not wrap where an instruction can execute (R26). -/
theorem toNat_pc_add_two (pc : Word) (h : pc.toNat + 1 < Config.memSize) : (pc + 2#16).toNat = pc.toNat + 2 := by
  simp only [Config.memSize] at h
  rw [BitVec.toNat_add, BitVec.toNat_ofNat]
  omega

/-- Nor does the advance by 4 (R26). -/
theorem toNat_pc_add_four (pc : Word) (h : pc.toNat + 1 < Config.memSize) : (pc + 4#16).toNat = pc.toNat + 4 := by
  simp only [Config.memSize] at h
  rw [BitVec.toNat_add, BitVec.toNat_ofNat]
  omega

@[simp] theorem toNat_addressOf (nnn : BitVec 12) : (addressOf nnn).toNat = nnn.toNat := by
  have := nnn.isLt
  simp only [addressOf, BitVec.toNat_setWidth]
  omega

/-! ## Timers -/

theorem timerTickNs_pos : 0 < Config.timerTickNs := Nat.succ_pos _

theorem tickDurationNs_pos : 0 < Config.tickDurationNs := Nat.succ_pos _

theorem scaledTicks_eq (ns : Nat) : scaledTicks ns = ns / Config.timerTickNs := by
  cases ns with
  | zero => simp [scaledTicks]
  | succ n => rfl

theorem countdownNs_eq (ns d : Nat) : countdownNs ns d = ns - d := by
  cases ns with
  | zero => simp [countdownNs]
  | succ n => rfl

/-- A timer set from a register lies within the bound of R33. -/
theorem setScaled_le (v : Byte) : setScaled v ≤ 255 * Config.timerTickNs := by
  have := v.isLt
  exact Nat.mul_le_mul_right _ (by omega)

section Countdown

variable (d : Nat) (s : State)

@[simp] theorem timerCountdown_v : (timerCountdown d s).v = s.v := rfl
@[simp] theorem timerCountdown_i : (timerCountdown d s).i = s.i := rfl
@[simp] theorem timerCountdown_pc : (timerCountdown d s).pc = s.pc := rfl
@[simp] theorem timerCountdown_stack : (timerCountdown d s).stack = s.stack := rfl
@[simp] theorem timerCountdown_mem : (timerCountdown d s).mem = s.mem := rfl
@[simp] theorem timerCountdown_fb : (timerCountdown d s).fb = s.fb := rfl
@[simp] theorem timerCountdown_accNs : (timerCountdown d s).accNs = s.accNs := rfl
@[simp] theorem timerCountdown_fault : (timerCountdown d s).fault = s.fault := rfl
@[simp] theorem timerCountdown_draws : (timerCountdown d s).draws = s.draws := rfl
@[simp] theorem timerCountdown_diagnostics : (timerCountdown d s).diagnostics = s.diagnostics := rfl
@[simp] theorem timerCountdown_reg (r : RegIdx) : (timerCountdown d s).reg r = s.reg r := rfl

@[simp] theorem timerCountdown_dtNs : (timerCountdown d s).dtNs = s.dtNs - d := countdownNs_eq _ _

@[simp] theorem timerCountdown_stNs : (timerCountdown d s).stNs = s.stNs - d := countdownNs_eq _ _

/-- The flag stays exactly while the sound timer's scaled value is not 0 (R153). -/
theorem timerCountdown_playing :
    (timerCountdown d s).playing = (s.playing && !((s.stNs - d) / Config.timerTickNs == 0)) := by
  show (s.playing && !(scaledTicks (countdownNs s.stNs d) == 0)) = _
  rw [scaledTicks_eq, countdownNs_eq]

end Countdown

/-! ## Keys -/

/-- The keys held at a draw are exactly the set bits of the host's key state (R165). -/
theorem mem_heldKeys (s : State) (k : KeyCode) : k ∈ heldKeys s ↔ (Config.keysHeld s.draws).getLsbD k.toNat = true := by
  have hk : k ∈ allKeys := List.mem_map.2 ⟨k.toNat, List.mem_range.2 k.isLt, by simp⟩
  simp [heldKeys, held, hk]

/-- `any_held()` answers none exactly when no key is held (R166). -/
theorem anyHeld_eq_none (s : State) : anyHeld s = none ↔ heldKeys s = [] := by
  unfold anyHeld
  rw [List.getElem?_eq_none_iff]
  constructor
  · intro h
    by_contra hne
    have := Nat.mod_lt (Config.keyChoice s.draws) (List.length_pos_of_ne_nil hne)
    omega
  · intro h; simp [h]

/-- A key `any_held()` answers is held (R166). -/
theorem anyHeld_mem (s : State) (k : KeyCode) (h : anyHeld s = some k) : k ∈ heldKeys s := List.mem_of_getElem? h

/-! ## Flags -/

theorem toNat_bool01 (c : Bool) : (bool01 c).toNat = if c = true then 1 else 0 := by
  cases c <;> rfl

theorem carryOut_iff (a b : Byte) : carryOut a b = true ↔ 255 < a.toNat + b.toNat := by simp [carryOut]

theorem noBorrow_iff (a b : Byte) : noBorrow a b = true ↔ b.toNat ≤ a.toNat := by simp [noBorrow]

/-- With x ≠ F both registers are written (R110). -/
theorem writeback_of_ne (o : ArithVfOrder) (x : RegIdx) (a : Byte) (f : Bool) (s : State) (h : x ≠ vf) :
    writeback o x a f s = (s.setReg x a).setReg vf (bool01 f) := by
  simp [writeback, h]

/-- With x = F one write is left (R110). -/
theorem writeback_vf (o : ArithVfOrder) (a : Byte) (f : Bool) (s : State) :
    writeback o vf a f s = s.setReg vf (match o with | .flagLast => bool01 f | .resultLast => a) := by
  cases o <;> simp [writeback]

/-- A writeback writes registers only, and of these only x and VF. -/
theorem writeback_setV (o : ArithVfOrder) (x : RegIdx) (a : Byte) (f : Bool) (s : State) :
    ∃ v, writeback o x a f s = s.setV v ∧ ∀ r, r ≠ x → r ≠ vf → (s.setV v).reg r = s.reg r := by
  by_cases h : x = vf
  · subst h
    refine ⟨_, writeback_vf o a f s, fun r h1 _ => ?_⟩
    exact State.reg_setReg_other _ _ _ _ h1
  · refine ⟨_, writeback_of_ne o x a f s h, fun r h1 h2 => ?_⟩
    exact (State.reg_setReg_other (s.setReg x a) vf r _ h2).trans (State.reg_setReg_other s x r a h1)

/-! ## Register ranges -/

/-- The k-th byte LD [I],Vx stores is V[k] (R128). -/
theorem rangeBytes_getD (x r : RegIdx) (s : State) (h : r.toNat ≤ x.toNat) : (rangeBytes x s).getD r.toNat 0#8 = s.reg r := by
  have hr : r.toNat < rangeCount x := Nat.lt_succ_of_le h
  simp [rangeBytes, List.getD, hr]

@[simp] theorem rangeBytes_length (x : RegIdx) (s : State) : (rangeBytes x s).length = rangeCount x := by
  simp [rangeBytes]

/-- Loading bytes into registers from `k` on writes registers only: each the byte at its place, the others as they were. -/
theorem setRegsFrom_setV (bs : List Byte) (s : State) (k : Nat) (h : k + bs.length ≤ 16) :
    ∃ v, s.setRegsFrom k bs = s.setV v ∧ ∀ r : RegIdx, (s.setV v).reg r =
      if k ≤ r.toNat ∧ r.toNat < k + bs.length then bs.getD (r.toNat - k) 0#8 else s.reg r := by
  induction bs generalizing s k with
  | nil =>
    refine ⟨s.v, rfl, fun r => ?_⟩
    rw [if_neg (by simp only [List.length_nil]; omega)]
    rfl
  | cons b bs ih =>
    simp only [List.length_cons] at h
    obtain ⟨v, hv, hr⟩ := ih (s.setReg (BitVec.ofNat 4 k) b) (k + 1) (by omega)
    refine ⟨v, hv, fun r => ?_⟩
    have hr' : (s.setV v).reg r = _ := hr r
    have hk : (BitVec.ofNat 4 k).toNat = k := by simp only [BitVec.toNat_ofNat]; omega
    rw [hr', State.reg_setReg]
    rcases lt_trichotomy r.toNat k with h1 | h1 | h1
    · rw [if_neg (by omega), if_neg (fun e => by rw [e, hk] at h1; omega),
        if_neg (by simp only [List.length_cons]; omega)]
    · have e : r = BitVec.ofNat 4 k := BitVec.eq_of_toNat_eq (h1.trans hk.symm)
      rw [if_neg (by omega), if_pos e, if_pos (by simp only [List.length_cons]; omega), h1]
      simp
    · rw [show r.toNat - k = (r.toNat - (k + 1)) + 1 by omega, List.getD_cons_succ]
      by_cases h2 : r.toNat < k + 1 + bs.length
      · rw [if_pos (by omega), if_pos (by simp only [List.length_cons]; omega)]
      · rw [if_neg (by omega), if_neg (fun e => by rw [e, hk] at h1; omega),
          if_neg (by simp only [List.length_cons]; omega)]

/-! ## The cycle -/

theorem fetchWord_of_fetchable (s : State) (h : s.pc.toNat + 1 < Config.memSize) :
    fetchWord s = some (wordOfBytes (s.mem.read s.pc.toNat) (s.mem.read (s.pc.toNat + 1))) := by
  simp [fetchWord, h]

theorem fetchWord_eq_none (s : State) : fetchWord s = none ↔ ¬ s.pc.toNat + 1 < Config.memSize := by
  unfold fetchWord
  split_ifs with h <;> simp [h]

/-- Everything a cycle that answers a next state has done: no fault was recorded, and either the fetch faulted, or the fetched
instruction was executed, with the countdown after it unless it raised a fault (R81). -/
theorem cycle_next (d : Nat) (s t : State) (h : cycle d s = .next t) :
    s.fault = none ∧
    ((fetchWord s = none ∧
        t = s.setFault (some ⟨.fetchOutOfRange, s.pc, none, BitVec.ofNat 16 (max s.pc.toNat Config.memSize)⟩)) ∨
     ∃ w u, fetchWord s = some w ∧ exec (decodeWord w) s = .next u ∧ t = endCycle d u) := by
  unfold cycle at h
  split at h
  · cases h
  · refine ⟨‹_›, ?_⟩
    split at h
    · exact .inl ⟨‹_›, (Host.Outcome.next.inj h).symm⟩
    · rename_i w hw
      refine .inr ⟨w, ?_⟩
      unfold executeThen at h
      split at h
      · rename_i u hu
        exact ⟨u, hw, hu, (Host.Outcome.next.inj h).symm⟩
      · cases h
      · cases h

theorem endCycle_of_none (d : Nat) (t : State) (h : t.fault = none) : endCycle d t = timerCountdown d t := by
  simp [endCycle, h]

theorem endCycle_of_some (d : Nat) (t : State) (r : FaultRecord) (h : t.fault = some r) : endCycle d t = t := by
  simp [endCycle, h]

/-- The cycle of a state with no fault recorded whose fetch succeeds. -/
theorem cycle_of_fetch (d : Nat) (s : State) (w : Word) (hf : s.fault = none) (hw : fetchWord s = some w) :
    cycle d s = executeThen d (decodeWord w) s := by
  simp [cycle, hf, hw]

theorem executeThen_next (d : Nat) (i : Instr) (s t : State) (h : exec i s = .next t) :
    executeThen d i s = .next (endCycle d t) := by
  simp [executeThen, h]

end Sys2Proof.Machine
end

