-- ==== Sys2Proof/Laws/Frame.lean ====
section
/-! SUPPORT. A frame taken apart into its thirteen parts, so that the simp lemmas of Laws/State.lean close it. -/

namespace Sys2Proof.Machine

/-- `OnlyChanges` part by part. -/
theorem onlyChanges_iff (ps : List Part) (s t : State) : OnlyChanges ps s t ↔
    (.regs ∈ ps ∨ ∀ r, t.reg r = s.reg r) ∧ (.index ∈ ps ∨ t.i = s.i) ∧ (.pc ∈ ps ∨ t.pc = s.pc) ∧
    (.stack ∈ ps ∨ t.stack = s.stack) ∧ (.delay ∈ ps ∨ t.dtNs = s.dtNs) ∧ (.sound ∈ ps ∨ t.stNs = s.stNs) ∧
    (.memory ∈ ps ∨ ∀ a, t.mem.read a = s.mem.read a) ∧
    (.screen ∈ ps ∨ ∀ px py, t.fb.pixel px py = s.fb.pixel px py) ∧ (.audio ∈ ps ∨ t.playing = s.playing) ∧
    (.accumulator ∈ ps ∨ t.accNs = s.accNs) ∧ (.faultReg ∈ ps ∨ t.fault = s.fault) ∧
    (.draws ∈ ps ∨ t.draws = s.draws) ∧ (.diagnostics ∈ ps ∨ t.diagnostics = s.diagnostics) := by
  constructor
  · intro h
    have k : ∀ p, p ∈ ps ∨ p.Same s t := fun p => (em (p ∈ ps)).imp id (h p)
    exact ⟨k .regs, k .index, k .pc, k .stack, k .delay, k .sound, k .memory, k .screen, k .audio, k .accumulator,
      k .faultReg, k .draws, k .diagnostics⟩
  · rintro ⟨h1, h2, h3, h4, h5, h6, h7, h8, h9, h10, h11, h12, h13⟩ p hp
    cases p <;> simp_all [Part.Same]

/-- A frame is kept by composition. -/
theorem OnlyChanges.trans {ps : List Part} {s t u : State} (h : OnlyChanges ps s t) (k : OnlyChanges ps t u) :
    OnlyChanges ps s u := by
  intro p hp
  have h' := h p hp
  have k' := k p hp
  cases p <;> simp_all [Part.Same]

/-- A wider frame says less. -/
theorem OnlyChanges.mono {ps qs : List Part} {s t : State} (h : OnlyChanges ps s t) (hq : ∀ p ∈ ps, p ∈ qs) :
    OnlyChanges qs s t := fun p hp => h p (fun hm => hp (hq p hm))

end Sys2Proof.Machine
end

