-- ==== Sys2Proof/Laws/PerInstr.lean ====
section
/-! SUPPORT. The per-instruction family Encoding: the word of a well-formed instruction is selected by its own row of R86 and
by no other. -/

namespace Sys2Proof.Laws.Encoding

/-- The word of `i` matches the row of R86 that has `i`'s mnemonic and no other row; an UNKNOWN word matches none. -/
def Statement (i : Instr) : Prop :=
  i.wf = true → ∀ r ∈ opcodeRows, r.selects (encode i) = (r.mnemonic == i.mnemonic)

/-- A row selects a word exactly when the masked nibbles are the pattern's. -/
theorem selects_ofNibbles (m : String) (a b c d p q r s f g h k : BitVec 4) :
    OpcodeRow.selects ⟨m, ofNibbles p q r s, ofNibbles f g h k⟩ (ofNibbles a b c d) =
      ((a &&& f == p) && (b &&& g == q) && (c &&& h == r) && (d &&& k == s)) := by
  rw [OpcodeRow.selects, Bool.eq_iff_iff]
  simp only [beq_iff_eq, Bool.and_eq_true, ofNibbles_and, ofNibbles_inj]
  tauto

/-- The rows of R86 with pattern and mask in nibbles. -/
theorem opcodeRows_nibbles : opcodeRows = [
    ⟨"CLS", ofNibbles 0x0 0x0 0xE 0x0, ofNibbles 0xF 0xF 0xF 0xF⟩,
    ⟨"RET", ofNibbles 0x0 0x0 0xE 0xE, ofNibbles 0xF 0xF 0xF 0xF⟩,
    ⟨"JP", ofNibbles 0x1 0x0 0x0 0x0, ofNibbles 0xF 0x0 0x0 0x0⟩,
    ⟨"CALL", ofNibbles 0x2 0x0 0x0 0x0, ofNibbles 0xF 0x0 0x0 0x0⟩,
    ⟨"SE_imm", ofNibbles 0x3 0x0 0x0 0x0, ofNibbles 0xF 0x0 0x0 0x0⟩,
    ⟨"SNE_imm", ofNibbles 0x4 0x0 0x0 0x0, ofNibbles 0xF 0x0 0x0 0x0⟩,
    ⟨"LD_imm", ofNibbles 0x6 0x0 0x0 0x0, ofNibbles 0xF 0x0 0x0 0x0⟩,
    ⟨"ADD_imm", ofNibbles 0x7 0x0 0x0 0x0, ofNibbles 0xF 0x0 0x0 0x0⟩,
    ⟨"LD_I", ofNibbles 0xA 0x0 0x0 0x0, ofNibbles 0xF 0x0 0x0 0x0⟩,
    ⟨"JP_V0", ofNibbles 0xB 0x0 0x0 0x0, ofNibbles 0xF 0x0 0x0 0x0⟩,
    ⟨"RND", ofNibbles 0xC 0x0 0x0 0x0, ofNibbles 0xF 0x0 0x0 0x0⟩,
    ⟨"DRW", ofNibbles 0xD 0x0 0x0 0x0, ofNibbles 0xF 0x0 0x0 0x0⟩,
    ⟨"SE_reg", ofNibbles 0x5 0x0 0x0 0x0, ofNibbles 0xF 0x0 0x0 0xF⟩,
    ⟨"LD_reg", ofNibbles 0x8 0x0 0x0 0x0, ofNibbles 0xF 0x0 0x0 0xF⟩,
    ⟨"OR", ofNibbles 0x8 0x0 0x0 0x1, ofNibbles 0xF 0x0 0x0 0xF⟩,
    ⟨"AND", ofNibbles 0x8 0x0 0x0 0x2, ofNibbles 0xF 0x0 0x0 0xF⟩,
    ⟨"XOR", ofNibbles 0x8 0x0 0x0 0x3, ofNibbles 0xF 0x0 0x0 0xF⟩,
    ⟨"ADD_reg", ofNibbles 0x8 0x0 0x0 0x4, ofNibbles 0xF 0x0 0x0 0xF⟩,
    ⟨"SUB", ofNibbles 0x8 0x0 0x0 0x5, ofNibbles 0xF 0x0 0x0 0xF⟩,
    ⟨"SHR", ofNibbles 0x8 0x0 0x0 0x6, ofNibbles 0xF 0x0 0x0 0xF⟩,
    ⟨"SUBN", ofNibbles 0x8 0x0 0x0 0x7, ofNibbles 0xF 0x0 0x0 0xF⟩,
    ⟨"SHL", ofNibbles 0x8 0x0 0x0 0xE, ofNibbles 0xF 0x0 0x0 0xF⟩,
    ⟨"SNE_reg", ofNibbles 0x9 0x0 0x0 0x0, ofNibbles 0xF 0x0 0x0 0xF⟩,
    ⟨"SKP", ofNibbles 0xE 0x0 0x9 0xE, ofNibbles 0xF 0x0 0xF 0xF⟩,
    ⟨"SKNP", ofNibbles 0xE 0x0 0xA 0x1, ofNibbles 0xF 0x0 0xF 0xF⟩,
    ⟨"LD_Vx_DT", ofNibbles 0xF 0x0 0x0 0x7, ofNibbles 0xF 0x0 0xF 0xF⟩,
    ⟨"LD_Vx_K", ofNibbles 0xF 0x0 0x0 0xA, ofNibbles 0xF 0x0 0xF 0xF⟩,
    ⟨"LD_DT_Vx", ofNibbles 0xF 0x0 0x1 0x5, ofNibbles 0xF 0x0 0xF 0xF⟩,
    ⟨"LD_ST_Vx", ofNibbles 0xF 0x0 0x1 0x8, ofNibbles 0xF 0x0 0xF 0xF⟩,
    ⟨"ADD_I", ofNibbles 0xF 0x0 0x1 0xE, ofNibbles 0xF 0x0 0xF 0xF⟩,
    ⟨"LD_F", ofNibbles 0xF 0x0 0x2 0x9, ofNibbles 0xF 0x0 0xF 0xF⟩,
    ⟨"LD_B", ofNibbles 0xF 0x0 0x3 0x3, ofNibbles 0xF 0x0 0xF 0xF⟩,
    ⟨"LD_MEM_Vx", ofNibbles 0xF 0x0 0x5 0x5, ofNibbles 0xF 0x0 0xF 0xF⟩,
    ⟨"LD_Vx_MEM", ofNibbles 0xF 0x0 0x6 0x5, ofNibbles 0xF 0x0 0xF 0xF⟩] := by
  decide

theorem op_extract (a b c d : BitVec 4) : (ofNibbles a b c d).extractLsb' 12 4 = a := opField_ofNibbles a b c d

theorem n_extract (a b c d : BitVec 4) : (ofNibbles a b c d).extractLsb' 0 4 = d := nField_ofNibbles a b c d

theorem nn_extract (a b c d : BitVec 4) : (ofNibbles a b c d).extractLsb' 0 8 = c ++ d := nnField_ofNibbles a b c d

theorem and_full (a : BitVec 4) : a &&& 15#4 = a := BitVec.and_allOnes

/-- A word that a row of R86 selects is not in the UNKNOWN space of R77. -/
theorem not_selects_of_unknown (r : OpcodeRow) (hr : r ∈ opcodeRows) (w : Word) (hw : inUnknownSpace w = true) :
    r.selects w = false := by
  rw [ofNibbles_fields w] at hw ⊢
  generalize opField w = a at *
  generalize xField w = b at *
  generalize yField w = c at *
  generalize nField w = d at *
  by_contra hs
  rw [Bool.not_eq_false] at hs
  simp only [opcodeRows_nibbles, List.mem_cons, List.not_mem_nil, or_false] at hr
  rcases hr with rfl | rfl | rfl | rfl | rfl | rfl | rfl | rfl | rfl | rfl | rfl | rfl | rfl | rfl | rfl | rfl | rfl | rfl |
    rfl | rfl | rfl | rfl | rfl | rfl | rfl | rfl | rfl | rfl | rfl | rfl | rfl | rfl | rfl | rfl <;>
  · simp [selects_ofNibbles, and_full] at hs
    simp [inUnknownSpace, op_extract, n_extract, nn_extract, hs] at hw
    try simp [ofNibbles] at hw

/-- The rows one after the other, for a word given in nibbles. -/
theorem statement_of_nibbles (i : Instr) (a b c d : BitVec 4) (hw : encode i = ofNibbles a b c d)
    (h : ∀ r ∈ opcodeRows, r.selects (ofNibbles a b c d) = (r.mnemonic == i.mnemonic)) : Statement i :=
  fun _ => hw ▸ h

theorem cls : Statement .cls := by
  intro _; decide

theorem ret : Statement .ret := by
  intro _; decide

theorem jp (nnn : BitVec 12) : Statement (.jp nnn) := by
  obtain ⟨b, c, d, rfl⟩ := exists_nibbles12 nnn
  refine statement_of_nibbles _ 0x1 b c d (append_address _ _ _ _) ?_
  simp [opcodeRows_nibbles, selects_ofNibbles, Instr.mnemonic]

theorem call (nnn : BitVec 12) : Statement (.call nnn) := by
  obtain ⟨b, c, d, rfl⟩ := exists_nibbles12 nnn
  refine statement_of_nibbles _ 0x2 b c d (append_address _ _ _ _) ?_
  simp [opcodeRows_nibbles, selects_ofNibbles, Instr.mnemonic]

theorem seImm (x : RegIdx) (nn : Byte) : Statement (.seImm x nn) := by
  obtain ⟨c, d, rfl⟩ := exists_nibbles8 nn
  refine statement_of_nibbles _ 0x3 x c d (append_constant _ _ _ _) ?_
  simp [opcodeRows_nibbles, selects_ofNibbles, Instr.mnemonic]

theorem sneImm (x : RegIdx) (nn : Byte) : Statement (.sneImm x nn) := by
  obtain ⟨c, d, rfl⟩ := exists_nibbles8 nn
  refine statement_of_nibbles _ 0x4 x c d (append_constant _ _ _ _) ?_
  simp [opcodeRows_nibbles, selects_ofNibbles, Instr.mnemonic]

theorem seReg (x : RegIdx) (y : RegIdx) : Statement (.seReg x y) := by
  refine statement_of_nibbles _ 0x5 x y 0x0 rfl ?_
  simp [opcodeRows_nibbles, selects_ofNibbles, Instr.mnemonic]

theorem ldImm (x : RegIdx) (nn : Byte) : Statement (.ldImm x nn) := by
  obtain ⟨c, d, rfl⟩ := exists_nibbles8 nn
  refine statement_of_nibbles _ 0x6 x c d (append_constant _ _ _ _) ?_
  simp [opcodeRows_nibbles, selects_ofNibbles, Instr.mnemonic]

theorem addImm (x : RegIdx) (nn : Byte) : Statement (.addImm x nn) := by
  obtain ⟨c, d, rfl⟩ := exists_nibbles8 nn
  refine statement_of_nibbles _ 0x7 x c d (append_constant _ _ _ _) ?_
  simp [opcodeRows_nibbles, selects_ofNibbles, Instr.mnemonic]

theorem ldReg (x : RegIdx) (y : RegIdx) : Statement (.ldReg x y) := by
  refine statement_of_nibbles _ 0x8 x y 0x0 rfl ?_
  simp [opcodeRows_nibbles, selects_ofNibbles, Instr.mnemonic]

theorem or (x : RegIdx) (y : RegIdx) : Statement (.or x y) := by
  refine statement_of_nibbles _ 0x8 x y 0x1 rfl ?_
  simp [opcodeRows_nibbles, selects_ofNibbles, Instr.mnemonic]

theorem and (x : RegIdx) (y : RegIdx) : Statement (.and x y) := by
  refine statement_of_nibbles _ 0x8 x y 0x2 rfl ?_
  simp [opcodeRows_nibbles, selects_ofNibbles, Instr.mnemonic]

theorem xor (x : RegIdx) (y : RegIdx) : Statement (.xor x y) := by
  refine statement_of_nibbles _ 0x8 x y 0x3 rfl ?_
  simp [opcodeRows_nibbles, selects_ofNibbles, Instr.mnemonic]

theorem addReg (x : RegIdx) (y : RegIdx) : Statement (.addReg x y) := by
  refine statement_of_nibbles _ 0x8 x y 0x4 rfl ?_
  simp [opcodeRows_nibbles, selects_ofNibbles, Instr.mnemonic]

theorem sub (x : RegIdx) (y : RegIdx) : Statement (.sub x y) := by
  refine statement_of_nibbles _ 0x8 x y 0x5 rfl ?_
  simp [opcodeRows_nibbles, selects_ofNibbles, Instr.mnemonic]

theorem shr (x : RegIdx) (y : RegIdx) : Statement (.shr x y) := by
  refine statement_of_nibbles _ 0x8 x y 0x6 rfl ?_
  simp [opcodeRows_nibbles, selects_ofNibbles, Instr.mnemonic]

theorem subn (x : RegIdx) (y : RegIdx) : Statement (.subn x y) := by
  refine statement_of_nibbles _ 0x8 x y 0x7 rfl ?_
  simp [opcodeRows_nibbles, selects_ofNibbles, Instr.mnemonic]

theorem shl (x : RegIdx) (y : RegIdx) : Statement (.shl x y) := by
  refine statement_of_nibbles _ 0x8 x y 0xE rfl ?_
  simp [opcodeRows_nibbles, selects_ofNibbles, Instr.mnemonic]

theorem sneReg (x : RegIdx) (y : RegIdx) : Statement (.sneReg x y) := by
  refine statement_of_nibbles _ 0x9 x y 0x0 rfl ?_
  simp [opcodeRows_nibbles, selects_ofNibbles, Instr.mnemonic]

theorem ldI (nnn : BitVec 12) : Statement (.ldI nnn) := by
  obtain ⟨b, c, d, rfl⟩ := exists_nibbles12 nnn
  refine statement_of_nibbles _ 0xA b c d (append_address _ _ _ _) ?_
  simp [opcodeRows_nibbles, selects_ofNibbles, Instr.mnemonic]

theorem jpV0 (nnn : BitVec 12) : Statement (.jpV0 nnn) := by
  obtain ⟨b, c, d, rfl⟩ := exists_nibbles12 nnn
  refine statement_of_nibbles _ 0xB b c d (append_address _ _ _ _) ?_
  simp [opcodeRows_nibbles, selects_ofNibbles, Instr.mnemonic]

theorem rnd (x : RegIdx) (nn : Byte) : Statement (.rnd x nn) := by
  obtain ⟨c, d, rfl⟩ := exists_nibbles8 nn
  refine statement_of_nibbles _ 0xC x c d (append_constant _ _ _ _) ?_
  simp [opcodeRows_nibbles, selects_ofNibbles, Instr.mnemonic]

theorem drw (x : RegIdx) (y : RegIdx) (n : BitVec 4) : Statement (.drw x y n) := by
  refine statement_of_nibbles _ 0xD x y n rfl ?_
  simp [opcodeRows_nibbles, selects_ofNibbles, Instr.mnemonic]

theorem skp (x : RegIdx) : Statement (.skp x) := by
  refine statement_of_nibbles _ 0xE x 0x9 0xE (append_constant 0xE x 0x9 0xE) ?_
  simp [opcodeRows_nibbles, selects_ofNibbles, Instr.mnemonic]

theorem sknp (x : RegIdx) : Statement (.sknp x) := by
  refine statement_of_nibbles _ 0xE x 0xA 0x1 (append_constant 0xE x 0xA 0x1) ?_
  simp [opcodeRows_nibbles, selects_ofNibbles, Instr.mnemonic]

theorem ldVxDt (x : RegIdx) : Statement (.ldVxDt x) := by
  refine statement_of_nibbles _ 0xF x 0x0 0x7 (append_constant 0xF x 0x0 0x7) ?_
  simp [opcodeRows_nibbles, selects_ofNibbles, Instr.mnemonic]

theorem ldVxK (x : RegIdx) : Statement (.ldVxK x) := by
  refine statement_of_nibbles _ 0xF x 0x0 0xA (append_constant 0xF x 0x0 0xA) ?_
  simp [opcodeRows_nibbles, selects_ofNibbles, Instr.mnemonic]

theorem ldDtVx (x : RegIdx) : Statement (.ldDtVx x) := by
  refine statement_of_nibbles _ 0xF x 0x1 0x5 (append_constant 0xF x 0x1 0x5) ?_
  simp [opcodeRows_nibbles, selects_ofNibbles, Instr.mnemonic]

theorem ldStVx (x : RegIdx) : Statement (.ldStVx x) := by
  refine statement_of_nibbles _ 0xF x 0x1 0x8 (append_constant 0xF x 0x1 0x8) ?_
  simp [opcodeRows_nibbles, selects_ofNibbles, Instr.mnemonic]

theorem addI (x : RegIdx) : Statement (.addI x) := by
  refine statement_of_nibbles _ 0xF x 0x1 0xE (append_constant 0xF x 0x1 0xE) ?_
  simp [opcodeRows_nibbles, selects_ofNibbles, Instr.mnemonic]

theorem ldF (x : RegIdx) : Statement (.ldF x) := by
  refine statement_of_nibbles _ 0xF x 0x2 0x9 (append_constant 0xF x 0x2 0x9) ?_
  simp [opcodeRows_nibbles, selects_ofNibbles, Instr.mnemonic]

theorem ldB (x : RegIdx) : Statement (.ldB x) := by
  refine statement_of_nibbles _ 0xF x 0x3 0x3 (append_constant 0xF x 0x3 0x3) ?_
  simp [opcodeRows_nibbles, selects_ofNibbles, Instr.mnemonic]

theorem ldMemVx (x : RegIdx) : Statement (.ldMemVx x) := by
  refine statement_of_nibbles _ 0xF x 0x5 0x5 (append_constant 0xF x 0x5 0x5) ?_
  simp [opcodeRows_nibbles, selects_ofNibbles, Instr.mnemonic]

theorem ldVxMem (x : RegIdx) : Statement (.ldVxMem x) := by
  refine statement_of_nibbles _ 0xF x 0x6 0x5 (append_constant 0xF x 0x6 0x5) ?_
  simp [opcodeRows_nibbles, selects_ofNibbles, Instr.mnemonic]

theorem unknown (w : Word) : Statement (.unknown w) := by
  intro hw r hr
  have hm : (r.mnemonic == "UNKNOWN") = false := by
    have h : ∀ r ∈ opcodeRows, (r.mnemonic == "UNKNOWN") = false := by decide
    exact h r hr
  exact (not_selects_of_unknown r hr w hw).trans hm.symm

end Sys2Proof.Laws.Encoding
end

