-- ==== Sys2Proof/Tests/Slice0.lean ====
section
/-! SUPPORT. Tests of the model: expected values come from spec/95_test_vectors.md (the vector is named at each test) or from the
encodings of spec/30_encoding.md. After them, one witness for each statement that has hypotheses. -/

open Sys2Proof Sys2Proof.Machine

namespace Sys2Proof.Tests

/-! ## Helpers -/

/-- The reset state with these registers. -/
def withRegs (rs : List (RegIdx × Byte)) : State := rs.foldl (fun s r => s.setReg r.1 r.2) State.reset

/-- The state with these bytes in memory. -/
def withBytes (a : Nat) (bs : List Byte) (s : State) : State := s.setMem (s.mem.writeBytes a bs)

/-- The answer is a next state that passes the check. -/
def gives (r : Result) (p : State → Bool) : Bool :=
  match r with
  | .next t => p t
  | _ => false

/-- One step of the word placed at PC. -/
def runs (w : Nat) (s : State) (p : State → Bool) : Bool := gives (step (s.withFetchWord 16 w)) p

/-- One step of the word placed at PC raises this fault, and changes no register, stack or memory byte at 0xFFF. -/
def faults (w : Nat) (s : State) (c : FaultCause) (word : Option Word) (info : Word) : Bool :=
  runs w s fun t => t.fault == some ⟨c, s.pc, word, info⟩ && t.pc == s.pc && t.v == s.v && t.stack == s.stack &&
    t.i == s.i && t.mem.read 0xFFF == s.mem.read 0xFFF

/-! ## Well-formedness -/

/-- An UNKNOWN that carries another instruction's word is refused, in each group of R77. -/
theorem test_wf_refuses :
    [(0x00E0 : Word), 0x00EE, 0x1234, 0x5120, 0x8ABE, 0x9120, 0xD123, 0xE39E, 0xE3A1, 0xF365, 0xF00A].all
      (fun w => !(Instr.unknown w).wf) = true := by decide

theorem test_wf_accepts :
    [(0x00E1 : Word), 0x0123, 0x0000, 0x5121, 0x8AB8, 0x8ABF, 0x912F, 0xE39F, 0xF700, 0xFFFF].all
      (fun w => (Instr.unknown w).wf) = true := by decide

/-! ## Decoding: a word of every constructor, written out from R71 to R76 (vectors S1, S2, E1 to E20, and section 3's words) -/

theorem test_decode_group0 : decodeWord 0x00E0 = .cls ∧ decodeWord 0x00EE = .ret ∧ decodeWord 0x0123 = .unknown 0x0123 := by
  decide

theorem test_decode_addresses : decodeWord 0x1ABC = .jp 0xABC ∧ decodeWord 0x207B = .call 0x07B ∧
    decodeWord 0xA300 = .ldI 0x300 ∧ decodeWord 0xB123 = .jpV0 0x123 := by decide

theorem test_decode_constants : decodeWord 0x3123 = .seImm 1 0x23 ∧ decodeWord 0x4123 = .sneImm 1 0x23 ∧
    decodeWord 0x60FE = .ldImm 0 0xFE ∧ decodeWord 0x71FF = .addImm 1 0xFF ∧ decodeWord 0xC30F = .rnd 3 0x0F := by decide

theorem test_decode_registers : decodeWord 0x5120 = .seReg 1 2 ∧ decodeWord 0x9120 = .sneReg 1 2 ∧
    decodeWord 0x5121 = .unknown 0x5121 ∧ decodeWord 0x912F = .unknown 0x912F := by decide

theorem test_decode_group8 : decodeWord 0x8100 = .ldReg 1 0 ∧ decodeWord 0x8231 = .or 2 3 ∧ decodeWord 0x8232 = .and 2 3 ∧
    decodeWord 0x8233 = .xor 2 3 ∧ decodeWord 0x8124 = .addReg 1 2 ∧ decodeWord 0x8125 = .sub 1 2 ∧
    decodeWord 0x8126 = .shr 1 2 ∧ decodeWord 0x8127 = .subn 1 2 ∧ decodeWord 0x8ABE = .shl 0xA 0xB ∧
    decodeWord 0x8AB8 = .unknown 0x8AB8 := by decide

theorem test_decode_draw : decodeWord 0xD123 = .drw 1 2 3 ∧ decodeWord 0xD120 = .drw 1 2 0 := by decide

theorem test_decode_keys : decodeWord 0xE39E = .skp 3 ∧ decodeWord 0xE3A1 = .sknp 3 ∧ decodeWord 0xE39F = .unknown 0xE39F := by
  decide

theorem test_decode_groupF : decodeWord 0xF107 = .ldVxDt 1 ∧ decodeWord 0xF50A = .ldVxK 5 ∧ decodeWord 0xF515 = .ldDtVx 5 ∧
    decodeWord 0xF618 = .ldStVx 6 ∧ decodeWord 0xF71E = .addI 7 ∧ decodeWord 0xF029 = .ldF 0 ∧ decodeWord 0xF033 = .ldB 0 ∧
    decodeWord 0xF255 = .ldMemVx 2 ∧ decodeWord 0xF065 = .ldVxMem 0 ∧ decodeWord 0xF700 = .unknown 0xF700 := by decide

/-- The encoder's words, from the same tables. -/
theorem test_encode : encode (.drw 1 2 3) = 0xD123 ∧ encode (.shl 0xA 0xB) = 0x8ABE ∧ encode (.jpV0 0x123) = 0xB123 ∧
    encode (.addI 7) = 0xF71E ∧ encode (.sneImm 1 0x23) = 0x4123 ∧ encode .ret = 0x00EE := by decide

/-- The two bytes are taken in memory order, the first the high one, and one byte is too few. -/
theorem test_decode_bytes : decode [0x12, 0x34, 0x56] = .ok (.jp 0x234, [0x56]) ∧ decode [0x12] = .error .truncated ∧
    decodeTableWord 16 0x8124 = some (.addReg 1 2) := ⟨rfl, rfl, by decide⟩

/-! ## The cycle -/

/-- F1, F3: big-endian, and the last word of memory. -/
theorem test_fetch : fetchWord (withBytes 0x200 [0x12, 0x34] State.reset) = some 0x1234 ∧
    fetchWord (withBytes 0xFFE [0x12, 0x00] (State.reset.setPc 0xFFE)) = some 0x1200 := by decide

/-- F4, F6. -/
theorem test_fetch_fault :
    gives (step (State.reset.setPc 0xFFF)) (fun t => t.fault == some ⟨.fetchOutOfRange, 0xFFF, none, 0x1000⟩) = true ∧
    gives (step (State.reset.setPc 0x10FE)) (fun t => t.fault == some ⟨.fetchOutOfRange, 0x10FE, none, 0x10FE⟩) = true := by
  decide

/-- A faulted core has no further step. -/
theorem test_halted : step (State.reset.setFault (some ⟨.iOverflow, 0x200, none, 0⟩)) =
    .fault (.coreHalted ⟨.iOverflow, 0x200, none, 0⟩) := rfl

/-- The host's placement is what the next step fetches. -/
theorem test_withFetchWord : fetchWord (State.reset.withFetchWord 16 0xD123) = some 0xD123 := by decide

/-! ## Display -/

/-- G1. -/
theorem test_cls : runs 0x00E0 ((withRegs [(15, 1)]).setFb (Vector.replicate 32 0xFF#64))
    (fun t => t.fb == Vector.replicate 32 0#64 && t.reg 15 == 1 && t.pc == 0x202) = true := by decide

/-- G2, G3: the glyph 0 drawn, then drawn again. -/
theorem test_drw_twice : gives (exec (.drw 1 2 5) State.reset) (fun t =>
    t.fb.toList.take 6 == [0xF, 0x9, 0x9, 0x9, 0xF, 0] && t.reg 15 == 0 &&
    gives (exec (.drw 1 2 5) t) (fun u => u.fb == State.reset.fb && u.reg 15 == 1)) = true := by decide

/-- G4 and G11: clipping at the right edge; coordinates from the old VF. -/
theorem test_drw_edge : gives (exec (.drw 1 2 5) (withRegs [(1, 62)])) (fun t =>
      t.fb.toList.take 6 == [0b11#64 <<< 62, 1#64 <<< 62, 1#64 <<< 62, 1#64 <<< 62, 0b11#64 <<< 62, 0]) = true ∧
    gives (exec (.drw 15 15 1) (withBytes 0x300 [0x80] ((withRegs [(15, 3)]).setI 0x300))) (fun t =>
      t.fb.pixel 3 3 && t.reg 15 == 0) = true := by decide

/-- G8. -/
theorem test_drw_fault : faults 0xD123 (State.reset.setI 0xFFE) .memoryOutOfRange (some 0xD123) 0x1000 = true := by decide

/-! ## Control transfer -/

/-- J7, J8. -/
theorem test_ret : runs 0x00EE (State.reset.setStack [0x200]) (fun t => t.pc == 0x202 && t.stack == []) = true ∧
    faults 0x00EE (State.reset.setPc 0x202) .stackUnderflow (some 0x00EE) 0 = true := by decide

/-- J2. -/
theorem test_jp : runs 0x1301 State.reset (fun t => t.pc == 0x301) = true := by decide

/-- S11, and J12 under a finite depth. -/
theorem test_call : runs 0x207B (State.reset.setPc 789) (fun t => t.pc == 123 && t.stack == [789]) = true ∧
    gives (callUnder (some 2) 0x400 (State.reset.setStack [1, 2])) (fun t =>
      t.fault == some ⟨.stackOverflow, 0x200, some 0x2400, 0⟩ && t.stack == [1, 2] && t.pc == 0x200) = true := by decide

/-- J10: no wrap at 12 bits. -/
theorem test_jpV0 : runs 0xBFFF (withRegs [(0, 0xFF)]) (fun t => t.pc == 0x10FE) = true := by decide

/-! ## Skips (K1 to K8) -/

theorem test_seImm : runs 0x3123 (withRegs [(1, 0x23)]) (·.pc == 0x204) = true ∧
    runs 0x3123 (withRegs [(1, 0x22)]) (·.pc == 0x202) = true := by decide

theorem test_sneImm : runs 0x4123 (withRegs [(1, 0x23)]) (·.pc == 0x202) = true ∧
    runs 0x4123 (withRegs [(1, 0x22)]) (·.pc == 0x204) = true := by decide

theorem test_seReg : runs 0x5120 (withRegs [(1, 7), (2, 7)]) (·.pc == 0x204) = true ∧
    runs 0x5120 (withRegs [(1, 7), (2, 8)]) (·.pc == 0x202) = true := by decide

theorem test_sneReg : runs 0x9120 (withRegs [(1, 7), (2, 8)]) (·.pc == 0x204) = true ∧
    runs 0x9120 (withRegs [(1, 7), (2, 7)]) (·.pc == 0x202) = true := by decide

/-! ## ALU -/

/-- A1. -/
theorem test_ldImm : runs 0x60FE State.reset (·.reg 0 == 0xFE) = true := by decide

/-- A2. -/
theorem test_addImm : runs 0x71FF (withRegs [(1, 5), (15, 0x77)]) (fun t => t.reg 1 == 4 && t.reg 15 == 0x77) = true := by decide

/-- A4. -/
theorem test_ldReg : runs 0x8100 (withRegs [(0, 0x81)]) (·.reg 1 == 0x81) = true := by decide

/-- A5. -/
theorem test_or : runs 0x8231 (withRegs [(2, 0x0F), (3, 0xF0), (15, 0x55)]) (fun t => t.reg 2 == 0xFF && t.reg 15 == 0x55) = true := by
  decide

/-- A6. -/
theorem test_and : runs 0x8232 (withRegs [(2, 0x3C), (3, 0x0F)]) (·.reg 2 == 0x0C) = true := by decide

/-- A7. -/
theorem test_xor : runs 0x8233 (withRegs [(2, 0x3C), (3, 0x0F)]) (·.reg 2 == 0x33) = true := by decide

/-- S4, S5. -/
theorem test_addReg : runs 0x8124 (withRegs [(1, 0xFF), (2, 8)]) (fun t => t.reg 1 == 7 && t.reg 15 == 1) = true ∧
    runs 0x8124 (withRegs [(1, 2), (2, 8)]) (fun t => t.reg 1 == 10 && t.reg 15 == 0) = true := by decide

/-- S6, A12. -/
theorem test_sub : runs 0x8125 (withRegs [(1, 2), (2, 8)]) (fun t => t.reg 1 == 250 && t.reg 15 == 0) = true ∧
    runs 0x81F5 (withRegs [(1, 5), (15, 3)]) (fun t => t.reg 1 == 2 && t.reg 15 == 1) = true := by decide

/-- A13, A14. -/
theorem test_subn : runs 0x8127 (withRegs [(1, 2), (2, 8)]) (fun t => t.reg 1 == 6 && t.reg 15 == 1) = true ∧
    runs 0x8127 (withRegs [(1, 8), (2, 2)]) (fun t => t.reg 1 == 0xFA && t.reg 15 == 0) = true := by decide

/-- A15: both orders of the writes to VF. -/
theorem test_writeback_vf :
    (writeback .flagLast 15 0x05 (carryOut 0x10 0xF5) State.reset).reg 15 = 0x01 ∧
    (writeback .resultLast 15 0x05 (carryOut 0x10 0xF5) State.reset).reg 15 = 0x05 := by decide

/-- S9, A21. -/
theorem test_shr : runs 0x8116 (withRegs [(1, 0xFF)]) (fun t => t.reg 1 == 0x7F && t.reg 15 == 1) = true ∧
    runs 0x8FF6 (withRegs [(15, 2)]) (·.reg 15 == 1) = true := by decide

/-- S8, A22. -/
theorem test_shl : runs 0x811E (withRegs [(1, 0xFF)]) (fun t => t.reg 1 == 0xFE && t.reg 15 == 1) = true ∧
    runs 0x8FFE (withRegs [(15, 0x81)]) (·.reg 15 == 2) = true := by decide

/-- A23: both shift sources. -/
theorem test_shift_source :
    gives (shrUnder .x 1 2 (withRegs [(2, 3)])) (fun t => t.reg 1 == 0 && t.reg 15 == 0) = true ∧
    gives (shrUnder .y 1 2 (withRegs [(2, 3)])) (fun t => t.reg 1 == 1 && t.reg 15 == 1) = true := by decide

/-- A24: the byte stays the host's. -/
theorem test_rnd : exec (.rnd 3 0x0F) State.reset =
    .next ((State.reset.setReg 3 (Config.randomByte 0 &&& 0x0F)).setDraws 1).advance := rfl

/-! ## Keys -/

/-- I5. -/
theorem test_skp_fault : faults 0xE39E ((withRegs [(3, 0x10)]).setPc 0x202) .keyOutOfRange (some 0xE39E) 0x10 = true := by decide

theorem test_sknp_fault : faults 0xE3A1 ((withRegs [(3, 0xFF)]).setPc 0x202) .keyOutOfRange (some 0xE3A1) 0xFF = true := by decide

/-- I6, I7: waiting, and a key arriving. -/
theorem test_awaitKey :
    gives (awaitKey none 5 (withRegs [(5, 0x44)])) (fun t => t.pc == 0x200 && t.reg 5 == 0x44) = true ∧
    gives (awaitKey (some 0xA) 5 (withRegs [(5, 0x44)])) (fun t => t.pc == 0x202 && t.reg 5 == 0x0A) = true := by decide

/-! ## Index, memory, timers -/

/-- M1. -/
theorem test_ldI : runs 0xA300 State.reset (fun t => t.i == 0x300 && t.pc == 0x202) = true := by decide

/-- M3, M4. -/
theorem test_addI : runs 0xF01E ((withRegs [(0, 1)]).setI 0xFFF) (fun t => t.i == 0x1000 && t.fault == none) = true ∧
    faults 0xF01E ((withRegs [(0, 1)]).setI 0xFFFF) .iOverflow (some 0xF01E) 0 = true := by decide

/-- M5, M7. -/
theorem test_ldF : runs 0xF029 (withRegs [(0, 0x0A)]) (·.i == 50) = true ∧
    runs 0xF029 (withRegs [(0, 0xFF)]) (·.i == 1275) = true := by decide

/-- M8, M10. -/
theorem test_ldB : runs 0xF033 ((withRegs [(0, 255)]).setI 0xFFD) (fun t =>
      t.mem.readBytes 0xFFD 3 == [2, 5, 5] && t.i == 0xFFD) = true ∧
    faults 0xF033 (State.reset.setI 0xFFE) .memoryOutOfRange (some 0xF033) 0x1000 = true := by decide

/-- M11, M13. -/
theorem test_ldMemVx : runs 0xF255 ((withRegs [(0, 1), (1, 2), (2, 3)]).setI 0x300) (fun t =>
      t.mem.readBytes 0x300 4 == [1, 2, 3, 0] && t.i == 0x303) = true ∧
    faults 0xF155 ((withRegs [(0, 9)]).setI 0xFFF) .memoryOutOfRange (some 0xF155) 0x1000 = true := by decide

/-- M14, M15. -/
theorem test_ldVxMem : runs 0xF265 (withBytes 0x300 [2, 5, 4, 7] ((withRegs [(3, 0x99)]).setI 0x300)) (fun t =>
      t.reg 0 == 2 && t.reg 1 == 5 && t.reg 2 == 4 && t.reg 3 == 0x99 && t.i == 0x303) = true ∧
    faults 0xF065 (State.reset.setI 0x1000) .memoryOutOfRange (some 0xF065) 0x1000 = true := by decide

/-- M17, before the countdown. -/
theorem test_ldDtVx : exec (.ldDtVx 5) (withRegs [(5, 3)]) = .next ((withRegs [(5, 3)]).setDt (3 * Config.timerTickNs)).advance :=
  rfl

/-- M21, before the countdown. -/
theorem test_ldStVx : exec (.ldStVx 6) (withRegs [(6, 4)]) =
    .next (((withRegs [(6, 4)]).setSt (4 * Config.timerTickNs)).setPlaying true).advance := rfl

/-- M19 at 0. -/
theorem test_ldVxDt : runs 0xF107 (withRegs [(1, 9)]) (·.reg 1 == 0) = true := by decide

/-- M22: the flag set by LD ST with 0 is cleared by the countdown of the same cycle. -/
theorem test_ldStVx_zero : gives (exec (.ldStVx 6) State.reset) (·.playing) = true ∧
    (timerCountdown 1 ((State.reset.setPlaying true))).playing = false := by decide

/-! ## Unknown words (U1, U6) -/

theorem test_unknown : runs 0x5121 (State.reset.setPc 0x300) (fun t => t.pc == 0x302 && t.diagnostics == [⟨0x300, 0x5121⟩]) = true ∧
    unknownUnder .refuse 0xE000 State.reset = .refused (.unknownWord 0xE000) := ⟨by decide, rfl⟩

/-! ## Scheduler and construction -/

/-- T1 to T5. -/
theorem test_tickCapped : gives (tickCapped 100 60 true State.reset) (fun t => t.accNs == 60 && t.pc == 0x200 &&
      gives (tickCapped 100 60 true t) (fun u => u.accNs == 0 && u.pc == 0x202)) = true ∧
    gives (tickCapped 100 100 true State.reset) (fun t => t.accNs == 100 && t.pc == 0x200) = true ∧
    gives (tickCapped 100 150 false State.reset) (fun t => t.accNs == 0 && t.pc == 0x200) = true := by decide

set_option maxRecDepth 8000 in
/-- R1 and R4 of section 2.11. -/
theorem test_construct : construct ResetFill.zero (some []) = .error .romEmpty ∧
    construct ResetFill.zero none = .error .romUnreadable ∧
    (match construct ResetFill.zero (some [0x12]) with
      | .ok s => fetchWord s == some 0x1200 && s.pc == 0x200 && s.mem.readBytes 0x4B 5 == [0xF0, 0x80, 0xF0, 0x80, 0x80]
      | .error _ => false) = true := ⟨rfl, rfl, by decide⟩

/-! ## Witnesses: for each statement with hypotheses, a state and operands that meet them, clause by clause -/

/-- The reset state with this word placed at PC. -/
def placed (w : Nat) : State := State.reset.withFetchWord 16 w

/-- The state an answer leads to, else the state given. -/
def nextOr (s : State) (r : Result) : State :=
  match r with
  | .next t => t
  | _ => s

/-- The address 0x200 of the reset state is one where an instruction executes. -/
theorem fetchable_reset : State.reset.Fetchable := by show _ < _; decide

theorem fetchable_withRegs (rs : List (RegIdx × Byte)) : (withRegs rs).Fetchable := by
  have h : (withRegs rs).pc = State.reset.pc := by
    unfold withRegs
    generalize State.reset = s
    induction rs generalizing s with
    | nil => rfl
    | cons r rs ih => exact ih (s.setReg r.1 r.2)
  show (withRegs rs).pc.toNat + 1 < _
  rw [h]; exact fetchable_reset

theorem witness_DecodeOfEncode : (Instr.unknown 0x00E1).wf = true ∧ (Instr.drw 15 0 15).wf = true := by decide

theorem witness_StepRunsDecodedInstruction : (placed 0x6105).fault = none ∧ (placed 0x6105).Fetchable ∧
    decode [(placed 0x6105).mem.read (placed 0x6105).pc.toNat, (placed 0x6105).mem.read ((placed 0x6105).pc.toNat + 1)] =
      .ok (.ldImm 1 5, []) := ⟨rfl, fetchable_reset, rfl⟩

/-- The last address that fetches, and the first that does not. -/
theorem witness_FetchReadsWordOrFaults : (State.reset.setPc 0xFFE).Fetchable ∧ ¬ (State.reset.setPc 0xFFF).Fetchable ∧
    (State.reset.setPc 0xFFF).fault = none :=
  ⟨by show _ < _; decide, by show ¬ _ < _; decide, rfl⟩

theorem witness_FaultedCoreHalts :
    (State.reset.setFault (some ⟨.keyOutOfRange, 0x200, some 0xE39E, 16⟩)).fault =
      some ⟨.keyOutOfRange, 0x200, some 0xE39E, 16⟩ := rfl

theorem witness_FaultsArePrecise : (placed 0x00EE).fault = none ∧
    ∃ t, step (placed 0x00EE) = .next t ∧ t.fault = some ⟨.stackUnderflow, 0x200, some 0x00EE, 0⟩ := ⟨rfl, _, rfl, rfl⟩

/-- An instruction of each row, raising its fault. -/
theorem witness_OnlyListedConditionsFault :
    [exec .ret State.reset, exec (.drw 1 2 3) (State.reset.setI 0xFFE), exec (.ldB 0) (State.reset.setI 0xFFE),
     exec (.ldMemVx 0) (State.reset.setI 0x1000), exec (.ldVxMem 15) (State.reset.setI 0xFF1),
     exec (.addI 0) ((withRegs [(0, 1)]).setI 0xFFFF), exec (.skp 0) (withRegs [(0, 16)]),
     exec (.sknp 0) (withRegs [(0, 16)])].all (fun r => gives r fun t => t.fault.isSome) = true := by decide

theorem witness_UnknownIsNoopOrRefused : State.reset.Fetchable := fetchable_reset

theorem witness_ClsClearsScreen : State.reset.Fetchable := fetchable_reset

/-- The last base address a sprite of 3 rows may have, and any base address with no row. -/
theorem witness_DrwXorsSprite : (State.reset.setI 0xFFD).Fetchable ∧ (State.reset.setI 0xFFD).i.toNat + (3#4).toNat ≤ 4096 ∧
    (State.reset.setI 0xFFFF).Fetchable ∧ 0#4 = 0#4 := ⟨fetchable_reset, by decide, fetchable_reset, rfl⟩

/-- Each edge. -/
theorem witness_DrwPastTheEdgeDrawsNothing : State.reset.i.toNat + (5#4).toNat ≤ 4096 ∧
    64 ≤ ((withRegs [(1, 64)]).reg 1).toNat ∧ 32 ≤ ((withRegs [(2, 32)]).reg 2).toNat := by decide

/-- The lowest base address of each form at which one of its bytes is missing. -/
theorem witness_MemoryRangeFaults : 3#4 ≠ 0#4 ∧ 4096 < (State.reset.setI 0xFFE).i.toNat + (3#4).toNat ∧
    4096 < (State.reset.setI 0xFFE).i.toNat + 3 ∧ 4096 < (State.reset.setI 0x1000).i.toNat + ((0 : RegIdx).toNat + 1) ∧
    4096 < (State.reset.setI 0xFF1).i.toNat + ((15 : RegIdx).toNat + 1) := by decide

theorem witness_CallPushesOwnAddress : State.reset.stack.length < 1 ∧ (State.reset.setStack [0x200, 0x300]).stack.length = 2 := by
  decide

theorem witness_RetPopsAndAdvances : (State.reset.setStack [0x200, 4094]).stack = [0x200] ++ [4094#16] ∧
    (4094#16).toNat ≤ 4094 ∧ State.reset.stack = [] := by decide

theorem witness_CallThenRetResumes : State.reset.Fetchable := fetchable_reset

/-- A match and a mismatch. -/
theorem witness_ConstantSkips : (withRegs [(1, 0x23)]).Fetchable ∧ (withRegs [(1, 0x23)]).reg 1 = 0x23#8 ∧
    (withRegs [(1, 0x22)]).Fetchable ∧ (withRegs [(1, 0x22)]).reg 1 ≠ 0x23#8 :=
  ⟨fetchable_withRegs _, by decide, fetchable_withRegs _, by decide⟩

theorem witness_RegisterSkips : (withRegs [(1, 7), (2, 7)]).Fetchable ∧
    (withRegs [(1, 7), (2, 7)]).reg 1 = (withRegs [(1, 7), (2, 7)]).reg 2 ∧ (withRegs [(1, 7), (2, 8)]).Fetchable ∧
    (withRegs [(1, 7), (2, 8)]).reg 1 ≠ (withRegs [(1, 7), (2, 8)]).reg 2 :=
  ⟨fetchable_withRegs _, by decide, fetchable_withRegs _, by decide⟩

theorem witness_RegisterLoads : State.reset.Fetchable ∧ (0 : RegIdx) ≠ 1 := ⟨fetchable_reset, by decide⟩

theorem witness_AddConstantSetsNoFlag : State.reset.Fetchable ∧ vf ≠ 1 := ⟨fetchable_reset, by decide⟩

theorem witness_BitwiseSetsNoFlag : State.reset.Fetchable ∧ vf ≠ 2 := ⟨fetchable_reset, by decide⟩

theorem witness_AddSetsCarry : State.reset.Fetchable ∧ (1 : RegIdx) ≠ vf ∧ (0 : RegIdx) ≠ 1 ∧ (0 : RegIdx) ≠ vf :=
  ⟨fetchable_reset, by decide⟩

theorem witness_SubtractSetsNoBorrow : State.reset.Fetchable ∧ (1 : RegIdx) ≠ vf ∧ (0 : RegIdx) ≠ 1 ∧ (0 : RegIdx) ≠ vf :=
  ⟨fetchable_reset, by decide⟩

/-- Vector A15 for ADD, A16 for SUB, A17 for SUBN; and an x other than F. -/
theorem witness_ArithmeticIntoVf : (withRegs [(15, 0x10), (1, 0xF5)]).Fetchable ∧
    5 = (((withRegs [(15, 0x10), (1, 0xF5)]).reg vf).toNat + ((withRegs [(15, 0x10), (1, 0xF5)]).reg 1).toNat) % 256 ∧
    0xF0 = (((withRegs [(15, 0x10), (1, 0x20)]).reg vf).toNat + 256 - ((withRegs [(15, 0x10), (1, 0x20)]).reg 1).toNat) % 256 ∧
    0x10 = (((withRegs [(15, 0x10), (1, 0x20)]).reg 1).toNat + 256 - ((withRegs [(15, 0x10), (1, 0x20)]).reg vf).toNat) % 256 ∧
    (1 : RegIdx) ≠ vf := ⟨fetchable_withRegs _, by decide⟩

theorem witness_ShiftsEjectThenStore : State.reset.Fetchable ∧ (1 : RegIdx) ≠ vf := ⟨fetchable_reset, by decide⟩

theorem witness_RandomIsMaskedDraw : State.reset.Fetchable ∧ (0 : RegIdx) ≠ 3 := ⟨fetchable_reset, by decide⟩

/-- The highest key code. -/
theorem witness_KeySkips : (withRegs [(3, 15)]).Fetchable ∧ ((withRegs [(3, 15)]).reg 3).toNat ≤ 15 :=
  ⟨fetchable_withRegs _, by decide⟩

/-- The lowest value that is none. -/
theorem witness_KeyCodePastFifteenFaults : 15 < ((withRegs [(3, 16)]).reg 3).toNat := by decide

theorem witness_AwaitKeyWaitsOrStores : State.reset.Fetchable := fetchable_reset

theorem witness_IndexLoads : State.reset.Fetchable := fetchable_reset

/-- The highest sum that fits, and the lowest that does not. -/
theorem witness_AddIndexOrOverflow : (State.reset.setI 0xFFFF).Fetchable ∧
    (State.reset.setI 0xFFFF).i.toNat + ((State.reset.setI 0xFFFF).reg 0).toNat ≤ 0xFFFF ∧
    0xFFFF < ((withRegs [(0, 1)]).setI 0xFFFF).i.toNat + (((withRegs [(0, 1)]).setI 0xFFFF).reg 0).toNat :=
  ⟨fetchable_reset, by decide, by decide⟩

/-- The last base address whose three bytes exist, and addresses on both sides of them at another base. -/
theorem witness_BcdStoresThreeDigits : (State.reset.setI 0xFFD).Fetchable ∧ (State.reset.setI 0xFFD).i.toNat + 2 < 4096 ∧
    0x2FF < (State.reset.setI 0x300).i.toNat ∧ (State.reset.setI 0x300).i.toNat + 2 < 0x303 :=
  ⟨fetchable_reset, by decide⟩

theorem witness_DumpStoresRegisters : (State.reset.setI 0xFF0).Fetchable ∧
    (State.reset.setI 0xFF0).i.toNat + (15 : RegIdx).toNat < 4096 ∧ (15 : RegIdx).toNat ≤ (15 : RegIdx).toNat ∧
    0xFEF < (State.reset.setI 0xFF0).i.toNat ∧ (State.reset.setI 0xFF0).i.toNat + (15 : RegIdx).toNat < 0x1000 :=
  ⟨fetchable_reset, by decide⟩

theorem witness_LoadReadsRegisters : (State.reset.setI 0xFFD).Fetchable ∧
    (State.reset.setI 0xFFD).i.toNat + (2 : RegIdx).toNat < 4096 ∧ (2 : RegIdx).toNat ≤ (2 : RegIdx).toNat ∧
    (2 : RegIdx).toNat < (3 : RegIdx).toNat := ⟨fetchable_reset, by decide⟩

/-- The dump of V0..V2 at 0x300, and a state with other registers whose memory and I fit the load. -/
theorem witness_DumpThenLoadRestores :
    ((withRegs [(0, 0x11), (1, 0x22), (2, 0x33)]).setI 0x300).i.toNat + (2 : RegIdx).toNat < 4096 ∧
    ∃ t, exec (.ldMemVx 2) ((withRegs [(0, 0x11), (1, 0x22), (2, 0x33)]).setI 0x300) = .next t ∧
      ((State.reset.setMem t.mem).setI 0x300).mem = t.mem ∧
      ((State.reset.setMem t.mem).setI 0x300).i = ((withRegs [(0, 0x11), (1, 0x22), (2, 0x33)]).setI 0x300).i :=
  ⟨by decide, _, rfl, rfl, rfl⟩

theorem witness_WriteChangesOneCell : 4095 < 4096 ∧ 4094 ≠ 4095 := by decide

/-- Two write histories of one content. -/
theorem witness_CanonicalMemoryIsUnique :
    Memory.wf (Memory.write [] 0x300 5) ∧ Memory.wf ((Memory.write [] 0x300 9).write 0x300 5) ∧
    ∀ a, a < 4096 → (Memory.write [] 0x300 5).read a = ((Memory.write [] 0x300 9).write 0x300 5).read a :=
  ⟨by decide, by decide, fun a _ => congrArg (Memory.read · a) (show Memory.write [] 0x300 5 = _ by decide)⟩

/-- The largest timer value. -/
theorem witness_ReadDelayTimer : (State.reset.setDt (255 * Config.timerTickNs)).Fetchable ∧
    (State.reset.setDt (255 * Config.timerTickNs)).dtNs ≤ 255 * Config.timerTickNs ∧ (0 : RegIdx) ≠ 1 :=
  ⟨fetchable_reset, le_rfl, by decide⟩

theorem witness_SetTimers : State.reset.Fetchable := fetchable_reset

theorem witness_TimerPrimitives : 255 * Config.timerTickNs ≤ 255 * Config.timerTickNs := le_rfl

/-- Silence at 0, and a tick left. -/
theorem witness_CountdownClearsSoundFlag : (State.reset.stNs - 1) / Config.timerTickNs = 0 ∧
    ((State.reset.setSt (Config.timerTickNs + 1)).stNs - 1) / Config.timerTickNs ≠ 0 := by
  refine ⟨by simp [State.reset], ?_⟩
  show (Config.timerTickNs + 1 - 1) / Config.timerTickNs ≠ 0
  rw [Nat.add_sub_cancel, Nat.div_self timerTickNs_pos]
  decide

/-- The states of a run from reset whose first word is `w`, and the second a jump to itself, with d = 1. -/
def run (w : List Byte) : Nat → State
  | 0 => withBytes 0x200 (w ++ [0x12, 0x02]) State.reset
  | n + 1 => nextOr State.reset (cycle 1 (run w n))

/-- LD DT, V1 and LD ST, V1, each followed by a jump. -/
theorem witness_CappedTimerLaw :
    (∀ k, k ≤ 1 → cycle 1 (run [0xF1, 0x15] k) = .next (run [0xF1, 0x15] (k + 1)) ∧ (run [0xF1, 0x15] (k + 1)).fault = none) ∧
    nextInstr (run [0xF1, 0x15] 0) = some (.ldDtVx 1) ∧
    (∀ k, 0 < k → k ≤ 1 → ∀ z, nextInstr (run [0xF1, 0x15] k) ≠ some (.ldDtVx z)) ∧
    (∀ k, k ≤ 1 → cycle 1 (run [0xF1, 0x18] k) = .next (run [0xF1, 0x18] (k + 1)) ∧ (run [0xF1, 0x18] (k + 1)).fault = none) ∧
    nextInstr (run [0xF1, 0x18] 0) = some (.ldStVx 1) ∧
    (∀ k, 0 < k → k ≤ 1 → ∀ z, nextInstr (run [0xF1, 0x18] k) ≠ some (.ldStVx z)) := by
  have c1 : nextInstr (run [0xF1, 0x15] 1) = some (.jp 0x202) := by decide
  have c2 : nextInstr (run [0xF1, 0x18] 1) = some (.jp 0x202) := by decide
  refine ⟨fun k hk => ?_, by decide, fun k h0 hk z => ?_, fun k hk => ?_, by decide, fun k h0 hk z => ?_⟩
  · rcases (show k = 0 ∨ k = 1 by omega) with rfl | rfl <;> exact ⟨rfl, rfl⟩
  · rw [show k = 1 by omega, c1]; simp
  · rcases (show k = 0 ∨ k = 1 by omega) with rfl | rfl <;> exact ⟨rfl, rfl⟩
  · rw [show k = 1 by omega, c2]; simp

/-- LD DT, V1 then LD V2, DT, with V1 = 2 and d = 1, which is at most T. -/
theorem witness_DelayReadAfterSet :
    ∃ t u, nextInstr (withBytes 0x200 [0xF1, 0x15, 0xF2, 0x07] (withRegs [(1, 2)])) = some (.ldDtVx 1) ∧
      cycle 1 (withBytes 0x200 [0xF1, 0x15, 0xF2, 0x07] (withRegs [(1, 2)])) = .next t ∧
      nextInstr t = some (.ldVxDt 2) ∧ cycle 1 t = .next u ∧ 0 < 1 ∧ 1 ≤ Config.timerTickNs ∧
      1 ≤ ((withBytes 0x200 [0xF1, 0x15, 0xF2, 0x07] (withRegs [(1, 2)])).reg 1).toNat :=
  ⟨_, _, by decide, rfl, rfl, rfl, by decide, timerTickNs_pos, by decide⟩

/-- The largest sum that does not fire, and the smallest that does, with the gate open, closed, and a fault recorded. -/
theorem witness_CappedTick : State.reset.accNs + 100 ≤ 100 ∧ 100 < State.reset.accNs + 101 ∧ true = true ∧
    State.reset.fault = none ∧ (State.reset.setFault (some ⟨.iOverflow, 0x200, none, 0⟩)).fault ≠ none := by decide

theorem witness_UncappedTick : State.reset.fault = none ∧
    (State.reset.setFault (some ⟨.iOverflow, 0x200, none, 0⟩)).fault ≠ none := by decide

theorem witness_StepIsFiredTick : State.reset.fault = none ∧
    Config.tickDurationNs < State.reset.accNs + (Config.tickDurationNs + 1) := ⟨rfl, by simp [State.reset]⟩

/-- The largest ROM, and one byte; the addresses on both sides of it. -/
theorem witness_ConstructLoadsFontAndRom : 0 < (List.replicate 3488 (0x12 : Byte)).length ∧
    (List.replicate 3488 (0x12 : Byte)).length ≤ 3488 ∧ 79 < 80 ∧ 0 < [(0x12 : Byte)].length ∧ 80 ≤ 511 ∧ 511 < 512 ∧
    512 + [(0x12 : Byte)].length ≤ 513 := by
  rw [List.length_replicate]; decide

theorem witness_ConstructMeetsInvariant : ResetFill.zero.Valid ∧ ∃ s, construct ResetFill.zero (some [0x12]) = .ok s :=
  ⟨⟨Nat.zero_le _, Nat.zero_le _, Memory.wf_nil⟩, _, rfl⟩

/-- A state in the middle of a run: a subroutine, a byte stored, the delay timer running. -/
def midRun : State := (((withBytes 0x300 [0x00, 0xEE] State.reset).setPc 0x300).setStack [0x200]).setDt Config.timerTickNs

theorem midRun_inv : midRun.Inv where
  memWf := Memory.wf_writeBytes _ _ _ Memory.wf_nil
  pcBound := by decide
  stackBound := by intro a ha; rw [List.mem_singleton.1 ha]; decide
  dtBound := Nat.le_mul_of_pos_left _ (by decide)
  stBound := Nat.zero_le _
  silent := fun h => absurd h (by decide)
  accBound := Nat.zero_le _
  faultPc := fun _ h => nomatch (show (none : Option FaultRecord) = some _ from h)

theorem witness_StepKeepsInvariant : midRun.Inv ∧ ∃ t, step midRun = .next t := ⟨midRun_inv, _, rfl⟩

/-- A tick with the gate closed, whichever mode is configured. -/
theorem witness_TicksKeepInvariant : midRun.Inv ∧ ∃ t, runTicks [⟨1, false⟩] midRun = .next t := by
  refine ⟨midRun_inv, ?_⟩
  simp only [runTicks, tick, tickUncapped, tickCapped, fireTick, Bool.false_and, Bool.false_eq_true, if_false]
  split_ifs <;> exact ⟨_, rfl⟩

/-- A writer of each part, changing it; for a V register and PC, one of each alternative. -/
theorem witness_OnlyNamedInstructionsWrite :
    [(exec (.ldImm 3 1) State.reset, 3#4), (exec (.ldVxMem 3) State.reset, 3#4), (exec (.shr 1 1) (withRegs [(1, 1)]), vf)].all
      (fun p => gives p.1 fun t => !(t.reg p.2 == 0)) = true ∧
    [exec (.jp 0x300) State.reset, exec (.seImm 0 0) State.reset, exec .ret State.reset, exec (.skp 0) (withRegs [(0, 16)]),
     awaitKey none 0 State.reset].all (fun r => gives r fun t => !(t.pc == State.reset.pc + 2#16)) = true ∧
    gives (exec (.call 0x300) State.reset) (fun t => !(t.stack == State.reset.stack)) = true ∧
    gives (exec (.drw 0 0 1) State.reset) (fun t => !(t.fb.pixel 0 0 == State.reset.fb.pixel 0 0)) = true ∧
    gives (exec (.ldB 0) (withRegs [(0, 1)])) (fun t => !(t.mem.read 2 == (withRegs [(0, 1)]).mem.read 2)) = true ∧
    gives (exec (.ldI 0x300) State.reset) (fun t => !(t.i == State.reset.i)) = true ∧
    (∃ t, exec (.ldDtVx 0) (withRegs [(0, 1)]) = .next t ∧ t.dtNs ≠ (withRegs [(0, 1)]).dtNs) ∧
    (∃ t, exec (.ldStVx 0) (withRegs [(0, 1)]) = .next t ∧ t.stNs ≠ (withRegs [(0, 1)]).stNs) ∧
    gives (exec (.ldStVx 0) State.reset) (fun t => !(t.playing == State.reset.playing)) = true ∧
    gives (exec (.addI 0) ((withRegs [(0, 1)]).setI 0xFFFF)) (fun t => !(t.fault == none)) = true ∧
    gives (exec (.rnd 0 0) State.reset) (fun t => !(t.draws == State.reset.draws)) = true ∧
    gives (exec (.unknown 0) State.reset) (fun t => !(t.diagnostics == State.reset.diagnostics)) = true :=
  ⟨by decide, by decide, by decide, by decide, by decide, by decide,
   ⟨_, rfl, Nat.ne_of_gt (Nat.mul_pos (by decide) timerTickNs_pos)⟩,
   ⟨_, rfl, Nat.ne_of_gt (Nat.mul_pos (by decide) timerTickNs_pos)⟩, by decide, by decide, by decide, by decide⟩

/-- A flag writer and a destination F, changing VF. -/
theorem witness_OnlyFlagWritersChangeVf :
    gives (exec (.addReg 1 1) (withRegs [(1, 0x80)])) (fun t => !(t.reg vf == (withRegs [(1, 0x80)]).reg vf)) = true ∧
    gives (exec (.ldImm vf 1) State.reset) (fun t => !(t.reg vf == State.reset.reg vf)) = true := by decide

/-- 0x1200 at 0x200. -/
theorem witness_NormalEndIsStable : NormalEnd (placed 0x1200) := ⟨rfl, by decide⟩

theorem witness_StoreIsSeenByNextFetch :
    -- LD [I],V1 over the second byte of its own word and the first of the next
    ((placed 0xF155).setI 0x201).fault = none ∧ nextInstr ((placed 0xF155).setI 0x201) = some (.ldMemVx 1) ∧
    ((placed 0xF155).setI 0x201).i.toNat + (rangeBytes 1 ((placed 0xF155).setI 0x201)).length ≤ 4096 ∧
    -- LD B over the last three bytes of memory, and a state that fetches them
    ((placed 0xF033).setI 0xFFD).fault = none ∧ nextInstr ((placed 0xF033).setI 0xFFD) = some (.ldB 0) ∧
    ((placed 0xF033).setI 0xFFD).i.toNat + (bcdDigits (((placed 0xF033).setI 0xFFD).reg 0)).length ≤ 4096 ∧
    (State.reset.setPc 0xFFE).Fetchable :=
  ⟨rfl, by decide, by decide, rfl, by decide, by decide, by show _ < _; decide⟩

/-- A program that rewrites its own word: it runs as fetched, and the next fetch there reads the bytes stored (R64). -/
theorem test_store_over_itself : runs 0xF155 ((withRegs [(0, 0x12), (1, 0x34)]).setI 0x200) (fun t =>
    t.i == 0x202 && t.pc == 0x202 && fetchWord (t.setPc 0x200) == some 0x1234) = true := by decide

end Sys2Proof.Tests
end

/-! # Scope: what a step and a tick do (spec/00_scope.md)

The scheduler's part of a step, the step of a faulted core, and the outcomes of the instructions that may fault. -/

namespace Sys2Proof.Machine

/-! ## The outcomes of the instructions that may fault

One lemma for each: the condition of each outcome, and what `exec` answers there. -/

theorem exec_ret_cases (s : State) :
    (s.pop? = none ∧ exec .ret s = raiseIn .ret .stackUnderflow 0#16 s) ∨
    ∃ a t, s.pop? = some (a, t) ∧ exec .ret s = .next (t.setPc (a + 2#16)) := by
  cases h : s.pop? with
  | none => exact .inl ⟨rfl, by simp only [exec, execRet, h]⟩
  | some p => exact .inr ⟨p.1, p.2, rfl, by simp only [exec, execRet, h]⟩

/-- `STACK_DEPTH` is unbounded (log 9), so a CALL never overflows. -/
theorem exec_call (nnn : BitVec 12) (s : State) :
    exec (.call nnn) s = .next ((s.push s.pc).setPc (addressOf nnn)) := rfl

theorem exec_drw_cases (x y : RegIdx) (n : BitVec 4) (s : State) :
    (∃ a, rangeFault (baseAddress s) n.toNat = some a ∧
      exec (.drw x y n) s = raiseIn (.drw x y n) .memoryOutOfRange a s) ∨
    (rangeFault (baseAddress s) n.toNat = none ∧
      exec (.drw x y n) s =
        .next (drawSprite (s.reg x).toNat (s.reg y).toNat (s.mem.readBytes (baseAddress s) n.toNat) s)) := by
  cases h : rangeFault (baseAddress s) n.toNat with
  | none => exact .inr ⟨rfl, by simp only [exec, execDrw, h]⟩
  | some a => exact .inl ⟨a, rfl, by simp only [exec, execDrw, h]⟩

theorem exec_ldB_cases (x : RegIdx) (s : State) :
    (∃ a, rangeFault (baseAddress s) 3 = some a ∧ exec (.ldB x) s = raiseIn (.ldB x) .memoryOutOfRange a s) ∨
    (rangeFault (baseAddress s) 3 = none ∧
      exec (.ldB x) s = .next (s.setMem (s.mem.writeBytes (baseAddress s) (bcdDigits (s.reg x)))).advance) := by
  cases h : rangeFault (baseAddress s) 3 with
  | none => exact .inr ⟨rfl, by simp only [exec, execLdB, h]⟩
  | some a => exact .inl ⟨a, rfl, by simp only [exec, execLdB, h]⟩

theorem exec_ldMemVx_cases (x : RegIdx) (s : State) :
    (∃ a, rangeFault (baseAddress s) (rangeCount x) = some a ∧
      exec (.ldMemVx x) s = raiseIn (.ldMemVx x) .memoryOutOfRange a s) ∨
    (rangeFault (baseAddress s) (rangeCount x) = none ∧
      exec (.ldMemVx x) s =
        .next ((s.setMem (s.mem.writeBytes (baseAddress s) (rangeBytes x s))).bumpIndex x).advance) := by
  cases h : rangeFault (baseAddress s) (rangeCount x) with
  | none => exact .inr ⟨rfl, by simp only [exec, execLdMemVx, h]⟩
  | some a => exact .inl ⟨a, rfl, by simp only [exec, execLdMemVx, h]⟩

theorem exec_ldVxMem_cases (x : RegIdx) (s : State) :
    (∃ a, rangeFault (baseAddress s) (rangeCount x) = some a ∧
      exec (.ldVxMem x) s = raiseIn (.ldVxMem x) .memoryOutOfRange a s) ∨
    (rangeFault (baseAddress s) (rangeCount x) = none ∧
      exec (.ldVxMem x) s =
        .next ((s.setRegsFrom 0 (s.mem.readBytes (baseAddress s) (rangeCount x))).bumpIndex x).advance) := by
  cases h : rangeFault (baseAddress s) (rangeCount x) with
  | none => exact .inr ⟨rfl, by simp only [exec, execLdVxMem, h]⟩
  | some a => exact .inl ⟨a, rfl, by simp only [exec, execLdVxMem, h]⟩

theorem exec_addI_cases (x : RegIdx) (s : State) :
    (0xFFFF < indexSum s x ∧
      exec (.addI x) s = raiseIn (.addI x) .iOverflow (BitVec.ofNat 16 (indexSum s x)) s) ∨
    (indexSum s x ≤ 0xFFFF ∧ exec (.addI x) s = .next (s.setI (BitVec.ofNat 16 (indexSum s x))).advance) := by
  rcases Nat.lt_or_ge 0xFFFF (indexSum s x) with h | h
  · exact .inl ⟨h, if_pos h⟩
  · exact .inr ⟨h, if_neg (Nat.not_lt.2 h)⟩

theorem exec_skp_cases (x : RegIdx) (s : State) :
    (15 < (s.reg x).toNat ∧ exec (.skp x) s = raiseIn (.skp x) .keyOutOfRange ((s.reg x).setWidth 16) s) ∨
    ((s.reg x).toNat ≤ 15 ∧ exec (.skp x) s = .next (s.skipIf (held s (keyOf s x))).nextDraw) := by
  rcases Nat.lt_or_ge 15 (s.reg x).toNat with h | h
  · exact .inl ⟨h, if_pos (decide_eq_true h)⟩
  · exact .inr ⟨h, if_neg (by simpa [keyOutOfRange] using h)⟩

theorem exec_sknp_cases (x : RegIdx) (s : State) :
    (15 < (s.reg x).toNat ∧ exec (.sknp x) s = raiseIn (.sknp x) .keyOutOfRange ((s.reg x).setWidth 16) s) ∨
    ((s.reg x).toNat ≤ 15 ∧ exec (.sknp x) s = .next (s.skipIf (!held s (keyOf s x))).nextDraw) := by
  rcases Nat.lt_or_ge 15 (s.reg x).toNat with h | h
  · exact .inl ⟨h, if_pos (decide_eq_true h)⟩
  · exact .inr ⟨h, if_neg (by simpa [keyOutOfRange] using h)⟩

/-- Settles O10: an instruction of the fault table answers a next state in each of its outcomes, a raised fault included;
every other instruction has one outcome, a next state. -/
theorem everyInstructionAnswersNext : Obligations.EveryInstructionAnswersNext := by
  intro i s
  cases i with
  | ret =>
    obtain ⟨-, h⟩ | ⟨a, t, -, h⟩ := exec_ret_cases s <;> exact ⟨_, h⟩
  | drw x y n =>
    obtain ⟨a, -, h⟩ | ⟨-, h⟩ := exec_drw_cases x y n s <;> exact ⟨_, h⟩
  | ldB x =>
    obtain ⟨a, -, h⟩ | ⟨-, h⟩ := exec_ldB_cases x s <;> exact ⟨_, h⟩
  | ldMemVx x =>
    obtain ⟨a, -, h⟩ | ⟨-, h⟩ := exec_ldMemVx_cases x s <;> exact ⟨_, h⟩
  | ldVxMem x =>
    obtain ⟨a, -, h⟩ | ⟨-, h⟩ := exec_ldVxMem_cases x s <;> exact ⟨_, h⟩
  | addI x =>
    obtain ⟨-, h⟩ | ⟨-, h⟩ := exec_addI_cases x s <;> exact ⟨_, h⟩
  | skp x =>
    obtain ⟨-, h⟩ | ⟨-, h⟩ := exec_skp_cases x s <;> exact ⟨_, h⟩
  | sknp x =>
    obtain ⟨-, h⟩ | ⟨-, h⟩ := exec_sknp_cases x s <;> exact ⟨_, h⟩
  | call nnn => exact ⟨_, exec_call nnn s⟩
  | _ => exact ⟨_, rfl⟩

/-! ## A faulted core -/

/-- A faulted core has no further cycle (R12, R139). -/
theorem cycle_of_fault (d : Nat) (s : State) (r : FaultRecord) (h : s.fault = some r) :
    cycle d s = .fault (.coreHalted r) := by
  simp only [cycle, h]

/-- On a faulted core a tick past the threshold resets the accumulator and runs no cycle, whatever the gate (R139, R154). -/
theorem fireTick_of_fault (d : Nat) (gate : Bool) (s : State) (r : FaultRecord) (h : s.fault = some r) :
    fireTick d gate s = .next (s.setAcc 0) := by
  simp [fireTick, h]

/-- On a faulted core a tick of either mode sets the accumulator and nothing else (R139, R154). -/
theorem tick_of_fault (delta : Nat) (gate : Bool) (s : State) (r : FaultRecord) (h : s.fault = some r) :
    ∃ a, tick delta gate s = .next (s.setAcc a) := by
  unfold tick tickUncapped tickCapped
  split_ifs
  · exact ⟨0, fireTick_of_fault _ _ _ r h⟩
  · exact ⟨0, fireTick_of_fault _ _ _ r h⟩
  · exact ⟨s.accNs + delta, rfl⟩

theorem onlyChanges_setAcc (s : State) (a : Nat) : OnlyChanges [.accumulator] s (s.setAcc a) := by
  simp [onlyChanges_iff]

/-- Settles O7: the cycle halts on the recorded fault, and a tick sets the accumulator only, which neither the snapshot nor
the audio query reads. -/
theorem faultedCoreHalts : Obligations.FaultedCoreHalts := by
  intro s r h
  refine ⟨cycle_of_fault _ (beginCycle s) r h, fun delta gate => ?_, fun ⟨hn, _⟩ => ?_⟩
  · obtain ⟨a, ha⟩ := tick_of_fault delta gate s r h
    exact ⟨s.setAcc a, ha, onlyChanges_setAcc s a, rfl, rfl⟩
  · exact Option.some_ne_none r (h.symm.trans hn)

/-! ## The two modes of the scheduler -/

theorem tick_uncapped (h : Config.configHz = 0) (delta : Nat) (gate : Bool) (s : State) :
    tick delta gate s = tickUncapped delta gate s := if_pos h

theorem tick_capped (h : Config.configHz ≠ 0) (delta : Nat) (gate : Bool) (s : State) :
    tick delta gate s = tickCapped Config.tickDurationNs delta gate s := if_neg h

/-- With the gate open and no fault recorded, a tick past the threshold runs a cycle (R154). -/
theorem fireTick_open (d : Nat) (s : State) (h : s.fault = none) : fireTick d true s = cycle d (s.setAcc 0) := by
  simp [fireTick, h]

/-- More than `d` in the accumulator fires (R154). -/
theorem tickCapped_of_lt (d delta : Nat) (gate : Bool) (s : State) (h : d < s.accNs + delta) :
    tickCapped d delta gate s = fireTick d gate s := if_pos h

/-- The step in uncapped mode: one draw, which is the countdown amount (R151, R158). -/
theorem step_uncapped (h : Config.configHz = 0) (s : State) :
    step s = cycle (Config.tickDelta s.draws) ((s.setDraws (s.draws + 1)).setAcc 0) := by
  simp only [step, cycleAmount, beginCycle, h, if_true]
  rfl

/-- The step in capped mode: no draw, and the countdown amount is D (R151). -/
theorem step_capped (h : Config.configHz ≠ 0) (s : State) :
    step s = cycle Config.tickDurationNs (s.setAcc 0) := by
  simp only [step, cycleAmount, beginCycle, h, if_false]
  rfl

/-- Settles O49: in each mode the tick fires, and the cycle it fires is the step's. -/
theorem stepIsFiredTick : Obligations.StepIsFiredTick := by
  by_cases hz : Config.configHz = 0
  · refine ⟨fun delta gate s => .inl ⟨hz, tick_uncapped hz delta gate s⟩, fun s hs => .inr ⟨hz, ?_⟩⟩
    rw [tick_uncapped hz, step_uncapped hz]
    exact fireTick_open _ _ hs
  · have hpos : 0 < Config.configHz := Nat.pos_of_ne_zero hz
    refine ⟨fun delta gate s => .inr ⟨hpos, tick_capped hz delta gate s⟩, fun s hs => .inl ⟨hpos, fun delta hd => ?_⟩⟩
    rw [tick_capped hz, tickCapped_of_lt _ _ _ _ hd, step_capped hz]
    exact fireTick_open _ _ hs

/-! ## The step of a running core -/

/-- The scheduler's part of a step touches neither the PC nor memory, so the fetch is that of the state before it. -/
@[simp] theorem fetchWord_beginCycle (s : State) : fetchWord (beginCycle s) = fetchWord s := rfl

/-- The scheduler's part of a step is an accumulator reset and the count of draws (R154, R155, R158). -/
theorem onlyChanges_beginCycle (s : State) : OnlyChanges [.accumulator, .draws] s (beginCycle s) := by
  simp [onlyChanges_iff, beginCycle]

/-- Two bytes decode to the instruction of their word (R51, R67). -/
theorem decode_pair (hi lo : Byte) : decode [hi, lo] = .ok (decodeWord (wordOfBytes hi lo), []) := rfl

/-- The end of a cycle with its condition as a test of the fault register (R81, R140). -/
theorem endCycle_eq_ite (d : Nat) (t : State) :
    endCycle d t = if t.fault = none then timerCountdown d t else t := by
  cases h : t.fault with
  | none => rw [if_pos rfl, endCycle_of_none d t h]
  | some r => rw [if_neg (Option.some_ne_none r), endCycle_of_some d t r h]

/-- A step of a running core whose fetch succeeds: the fetched word's instruction, then the end of the cycle (R81). -/
theorem step_of_fetch (s : State) (w : Word) (hf : s.fault = none) (hw : fetchWord s = some w) :
    step s = executeThen (cycleAmount s) (decodeWord w) (beginCycle s) :=
  cycle_of_fetch _ (beginCycle s) w hf hw

/-- Settles O5: the fetch gives the word of the two bytes, and its instruction answers a next state (O10), which the end of the
cycle counts down unless a fault was raised. -/
theorem stepRunsDecodedInstruction : Obligations.StepRunsDecodedInstruction := by
  intro s i hf hs hi
  refine ⟨?_, rfl, onlyChanges_beginCycle s⟩
  have hd : decodeWord (wordOfBytes (s.mem.read s.pc.toNat) (s.mem.read (s.pc.toNat + 1))) = i := by
    rw [decode_pair] at hi
    exact congrArg Prod.fst (Except.ok.inj hi)
  obtain ⟨t, ht⟩ := everyInstructionAnswersNext i (beginCycle s)
  rw [step_of_fetch s _ hf (fetchWord_of_fetchable s hs), hd, executeThen_next _ _ _ t ht, endCycle_eq_ite, ht]

end Sys2Proof.Machine

/-! # State: who writes each part, and the invariant (spec/10_state.md)

`Effect` lists the next states an instruction can answer, and `exec_effect` says that `exec` answers one of them in every state.
The writers of each part and the invariant are read off `Effect`; no proof after `exec_effect` unfolds an instruction. -/

namespace Sys2Proof.Machine

/-! ## The registers an instruction may write -/

/-- The instruction may write the register: its destination x, one of V0..Vx of LD Vx,[I], or VF as its flag (R20, R21). -/
def WritesReg : Instr → RegIdx → Prop
  | .ldImm x _, r | .addImm x _, r | .ldReg x _, r | .or x _, r | .and x _, r | .xor x _, r | .rnd x _, r | .ldVxDt x, r
  | .ldVxK x, r => x = r
  | .addReg x _, r | .sub x _, r | .subn x _, r | .shr x _, r | .shl x _, r => x = r ∨ r = vf
  | .drw _ _ _, r => r = vf
  | .ldVxMem x, r => r.toNat ≤ x.toNat
  | _, _ => False

/-- `V[x] <- a` writes no register but x, so it writes only what an instruction that may write x may write. -/
theorem writesReg_setReg {i : Instr} {x : RegIdx} (hx : WritesReg i x) (s : State) (a : Byte) :
    ∀ r, (s.setReg x a).reg r ≠ s.reg r → WritesReg i r := by
  intro r hr
  have hrx : r = x := by
    by_contra hne
    exact hr (State.reg_setReg_other s x r a hne)
  exact hrx ▸ hx

/-! ## The next states of an instruction -/

/-- `Effect s i t`: in state `s` the instruction `i` may answer the next state `t`. One constructor for each way of changing the
state. -/
inductive Effect (s : State) : Instr → State → Prop
  /-- a fault of the table of R138: the fault register only (R137) -/
  | raise {i : Instr} (c : FaultCause) (info : Word) (hi : MayFault i) :
      Effect s i (s.setFault (some ⟨c, s.pc, some (encode i), info⟩))
  /-- loads, arithmetic, bitwise and shift instructions, LD Vx,DT -/
  | regs {i : Instr} (v : Vector Byte 16) (hv : ∀ r, (s.setV v).reg r ≠ s.reg r → WritesReg i r) :
      Effect s i (s.setV v).advance
  /-- RND (R115) -/
  | random (x : RegIdx) (nn a : Byte) : Effect s (.rnd x nn) (s.setReg x a).nextDraw.advance
  /-- LD Vx,K while no key is held (R121) -/
  | wait (x : RegIdx) : Effect s (.ldVxK x) s.nextDraw
  /-- LD Vx,K with a key held (R121) -/
  | key (x : RegIdx) (a : Byte) : Effect s (.ldVxK x) (s.setReg x a).advance.nextDraw
  /-- the comparison skips (R98 to R102) -/
  | skip {i : Instr} (c : Bool)
      (hi : ∃ x y nn, i = .seImm x nn ∨ i = .sneImm x nn ∨ i = .seReg x y ∨ i = .sneReg x y) : Effect s i (s.skipIf c)
  /-- SKP and SKNP with a key code in range (R119, R120) -/
  | keySkip {i : Instr} (c : Bool) (hi : ∃ x, i = .skp x ∨ i = .sknp x) : Effect s i (s.skipIf c).nextDraw
  /-- JP and JP V0, to at most 0xFFF + 0xFF (R94, R96) -/
  | jump {i : Instr} (a : Word) (ha : a.toNat ≤ 0x10FE) (hi : ∃ nnn, i = .jp nnn ∨ i = .jpV0 nnn) : Effect s i (s.setPc a)
  /-- CALL (R95) -/
  | call (nnn : BitVec 12) : Effect s (.call nnn) ((s.push s.pc).setPc (addressOf nnn))
  /-- RET from a stack that is not empty (R93) -/
  | ret (below : List Word) (a : Word) (hs : s.stack = below ++ [a]) :
      Effect s .ret ((s.setStack below).setPc (a + 2#16))
  /-- CLS (R87) -/
  | clear (fb : Framebuffer) : Effect s .cls (s.setFb fb).advance
  /-- DRW (R88) -/
  | draw (x y : RegIdx) (n : BitVec 4) (fb : Framebuffer) (a : Byte) :
      Effect s (.drw x y n) ((s.setFb fb).setReg vf a).advance
  /-- LD I, ADD I and LD F (R124 to R126) -/
  | index {i : Instr} (a : Word) (hi : (∃ nnn, i = .ldI nnn) ∨ ∃ x, i = .addI x ∨ i = .ldF x) : Effect s i (s.setI a).advance
  /-- LD B (R127) -/
  | bcd (x : RegIdx) (a : Nat) (bs : List Byte) : Effect s (.ldB x) (s.setMem (s.mem.writeBytes a bs)).advance
  /-- LD [I],Vx (R128) -/
  | dump (x : RegIdx) (a : Nat) (bs : List Byte) :
      Effect s (.ldMemVx x) ((s.setMem (s.mem.writeBytes a bs)).bumpIndex x).advance
  /-- LD Vx,[I] (R129) -/
  | load (x : RegIdx) (v : Vector Byte 16) (hv : ∀ r, (s.setV v).reg r ≠ s.reg r → WritesReg (.ldVxMem x) r) :
      Effect s (.ldVxMem x) ((s.setV v).bumpIndex x).advance
  /-- LD DT,Vx (R131) -/
  | delay (x : RegIdx) : Effect s (.ldDtVx x) (s.setDt (setScaled (s.reg x))).advance
  /-- LD ST,Vx (R132) -/
  | sound (x : RegIdx) : Effect s (.ldStVx x) ((s.setSt (setScaled (s.reg x))).setPlaying true).advance
  /-- UNKNOWN (R135) -/
  | unknown (w : Word) : Effect s (.unknown w) (s.emit w).advance

/-- The instructions that write one register and advance. -/
theorem Effect.setReg {s : State} {i : Instr} (x : RegIdx) (a : Byte) (hx : WritesReg i x) :
    Effect s i (s.setReg x a).advance :=
  .regs _ (writesReg_setReg hx s a)

/-- ADD Vx,Vy, SUB and SUBN under either order of their writes (R110). -/
theorem Effect.writeback {s : State} {i : Instr} (o : ArithVfOrder) (x : RegIdx) (a : Byte) (f : Bool) (hx : WritesReg i x)
    (hf : WritesReg i vf) : Effect s i (writeback o x a f s).advance := by
  obtain ⟨v, hv, hother⟩ := writeback_setV o x a f s
  rw [hv]
  refine .regs v fun r hr => ?_
  by_contra hn
  exact hr (hother r (fun h => hn (h ▸ hx)) (fun h => hn (h ▸ hf)))

/-- SHR and SHL (R113, R114). -/
theorem Effect.shiftWriteback {s : State} {i : Instr} (x : RegIdx) (a f : Byte) (hx : WritesReg i x) (hf : WritesReg i vf) :
    Effect s i (shiftWriteback x a f s).advance := by
  refine .regs _ fun r hr => ?_
  by_contra hn
  exact hr ((State.reg_setReg_other _ x r a fun h => hn (h ▸ hx)).trans (State.reg_setReg_other s vf r f fun h => hn (h ▸ hf)))

/-- An instruction of the fault table that raises. -/
theorem exists_effect_of_raiseIn {s : State} {i : Instr} {c : FaultCause} {info : Word} (hi : MayFault i)
    (h : exec i s = raiseIn i c info s) : ∃ t, exec i s = .next t ∧ Effect s i t :=
  ⟨_, h, .raise c info hi⟩

/-- A pop takes the last entry off (R29). -/
theorem pop?_eq_some (s : State) (a : Word) (t : State) :
    s.pop? = some (a, t) ↔ ∃ below, s.stack = below ++ [a] ∧ t = s.setStack below := by
  unfold State.pop?
  constructor
  · intro h
    split at h
    · cases h
    · rename_i b hb
      obtain ⟨rfl, rfl⟩ := Prod.mk.inj (Option.some.inj h)
      obtain ⟨below, hs⟩ := List.getLast?_eq_some_iff.1 hb
      exact ⟨below, hs, by rw [hs, List.dropLast_concat]⟩
  · rintro ⟨below, hs, rfl⟩
    simp [hs]

/-- RET from a stack that is not empty (R93). -/
theorem exec_ret_append (s : State) (below : List Word) (a : Word) (h : s.stack = below ++ [a]) :
    exec .ret s = .next ((s.setStack below).setPc (a + 2#16)) := by
  have hp : s.pop? = some (a, s.setStack below) := (pop?_eq_some s a _).2 ⟨below, h, rfl⟩
  simp only [exec, execRet, hp]

theorem exec_ldVxK_cases (x : RegIdx) (s : State) :
    (anyHeld s = none ∧ exec (.ldVxK x) s = .next s.nextDraw) ∨
    ∃ k, anyHeld s = some k ∧ exec (.ldVxK x) s = .next (s.setReg x (k.setWidth 8)).advance.nextDraw := by
  cases h : anyHeld s with
  | none => exact .inl ⟨rfl, by simp only [exec, execLdVxK, awaitKey, h]⟩
  | some k => exact .inr ⟨k, rfl, by simp only [exec, execLdVxK, awaitKey, h]⟩

/-- The target of JP V0 does not wrap (R96). -/
theorem toNat_jpV0_target (nnn : BitVec 12) (b : Byte) : (addressOf nnn + b.setWidth 16).toNat = nnn.toNat + b.toNat := by
  have hn := nnn.isLt
  have hb := b.isLt
  rw [BitVec.toNat_add, toNat_addressOf, BitVec.toNat_setWidth]
  omega

/-- LD Vx,[I] writes V0..Vx only (R129). -/
theorem effect_load (s : State) (x : RegIdx) (bs : List Byte) (hbs : bs.length = rangeCount x) :
    Effect s (.ldVxMem x) ((s.setRegsFrom 0 bs).bumpIndex x).advance := by
  have hx := x.isLt
  have hc : rangeCount x = x.toNat + 1 := rfl
  obtain ⟨v, hv, hreg⟩ := setRegsFrom_setV bs s 0 (by omega)
  rw [hv]
  refine .load x v fun r hr => ?_
  by_contra hn
  have hr' : ¬ (0 ≤ r.toNat ∧ r.toNat < 0 + bs.length) := fun h => hn (show r.toNat ≤ x.toNat by omega)
  exact hr ((hreg r).trans (if_neg hr'))

/-- Every instruction answers a next state, one that `Effect` lists. -/
theorem exec_effect (s : State) (i : Instr) : ∃ t, exec i s = .next t ∧ Effect s i t := by
  cases i with
  | cls => exact ⟨_, rfl, .clear _⟩
  | ret =>
    obtain ⟨-, h⟩ | ⟨a, t, hp, h⟩ := exec_ret_cases s
    · exact exists_effect_of_raiseIn (.inl rfl) h
    · obtain ⟨below, hs, rfl⟩ := (pop?_eq_some s a t).1 hp
      exact ⟨_, h, .ret below a hs⟩
  | jp nnn =>
    have hn := nnn.isLt
    exact ⟨_, rfl, .jump _ (by rw [toNat_addressOf]; omega) ⟨nnn, .inl rfl⟩⟩
  | jpV0 nnn =>
    have hn := nnn.isLt
    have hb := (s.reg 0#4).isLt
    exact ⟨_, rfl, .jump _ (by rw [toNat_jpV0_target]; omega) ⟨nnn, .inr rfl⟩⟩
  | call nnn => exact ⟨_, exec_call nnn s, .call nnn⟩
  | seImm x nn => exact ⟨_, rfl, .skip _ ⟨x, x, nn, .inl rfl⟩⟩
  | sneImm x nn => exact ⟨_, rfl, .skip _ ⟨x, x, nn, .inr (.inl rfl)⟩⟩
  | seReg x y => exact ⟨_, rfl, .skip _ ⟨x, y, 0, .inr (.inr (.inl rfl))⟩⟩
  | sneReg x y => exact ⟨_, rfl, .skip _ ⟨x, y, 0, .inr (.inr (.inr rfl))⟩⟩
  | ldImm x nn => exact ⟨_, rfl, .setReg x _ rfl⟩
  | addImm x nn => exact ⟨_, rfl, .setReg x _ rfl⟩
  | ldReg x y => exact ⟨_, rfl, .setReg x _ rfl⟩
  | or x y => exact ⟨_, rfl, .setReg x _ rfl⟩
  | and x y => exact ⟨_, rfl, .setReg x _ rfl⟩
  | xor x y => exact ⟨_, rfl, .setReg x _ rfl⟩
  | ldVxDt x => exact ⟨_, rfl, .setReg x _ rfl⟩
  | addReg x y => exact ⟨_, rfl, .writeback _ x _ _ (.inl rfl) (.inr rfl)⟩
  | sub x y => exact ⟨_, rfl, .writeback _ x _ _ (.inl rfl) (.inr rfl)⟩
  | subn x y => exact ⟨_, rfl, .writeback _ x _ _ (.inl rfl) (.inr rfl)⟩
  | shr x y => exact ⟨_, rfl, .shiftWriteback x _ _ (.inl rfl) (.inr rfl)⟩
  | shl x y => exact ⟨_, rfl, .shiftWriteback x _ _ (.inl rfl) (.inr rfl)⟩
  | rnd x nn => exact ⟨_, rfl, .random x nn _⟩
  | ldVxK x =>
    obtain ⟨-, h⟩ | ⟨k, -, h⟩ := exec_ldVxK_cases x s
    · exact ⟨_, h, .wait x⟩
    · exact ⟨_, h, .key x _⟩
  | skp x =>
    obtain ⟨-, h⟩ | ⟨-, h⟩ := exec_skp_cases x s
    · exact exists_effect_of_raiseIn (by simp [MayFault]) h
    · exact ⟨_, h, .keySkip _ ⟨x, .inl rfl⟩⟩
  | sknp x =>
    obtain ⟨-, h⟩ | ⟨-, h⟩ := exec_sknp_cases x s
    · exact exists_effect_of_raiseIn (by simp [MayFault]) h
    · exact ⟨_, h, .keySkip _ ⟨x, .inr rfl⟩⟩
  | drw x y n =>
    obtain ⟨a, ha, h⟩ | ⟨-, h⟩ := exec_drw_cases x y n s
    · obtain ⟨hn, -, -⟩ := rangeFault_inv _ _ _ ha
      exact exists_effect_of_raiseIn (.inr (.inl ⟨x, y, n, rfl, fun h0 => hn (congrArg BitVec.toNat h0)⟩)) h
    · exact ⟨_, h, .draw x y n _ _⟩
  | ldI nnn => exact ⟨_, rfl, .index _ (.inl ⟨nnn, rfl⟩)⟩
  | ldF x => exact ⟨_, rfl, .index _ (.inr ⟨x, .inr rfl⟩)⟩
  | addI x =>
    obtain ⟨-, h⟩ | ⟨-, h⟩ := exec_addI_cases x s
    · exact exists_effect_of_raiseIn (by simp [MayFault]) h
    · exact ⟨_, h, .index _ (.inr ⟨x, .inl rfl⟩)⟩
  | ldB x =>
    obtain ⟨a, -, h⟩ | ⟨-, h⟩ := exec_ldB_cases x s
    · exact exists_effect_of_raiseIn (by simp [MayFault]) h
    · exact ⟨_, h, .bcd x _ _⟩
  | ldMemVx x =>
    obtain ⟨a, -, h⟩ | ⟨-, h⟩ := exec_ldMemVx_cases x s
    · exact exists_effect_of_raiseIn (by simp [MayFault]) h
    · exact ⟨_, h, .dump x _ _⟩
  | ldVxMem x =>
    obtain ⟨a, -, h⟩ | ⟨-, h⟩ := exec_ldVxMem_cases x s
    · exact exists_effect_of_raiseIn (by simp [MayFault]) h
    · exact ⟨_, h, effect_load s x _ (Memory.readBytes_length _ _ _)⟩
  | ldDtVx x => exact ⟨_, rfl, .delay x⟩
  | ldStVx x => exact ⟨_, rfl, .sound x⟩
  | unknown w => exact ⟨_, rfl, .unknown w⟩

/-- The next state an instruction answers is one that `Effect` lists. -/
theorem effect_of_exec {i : Instr} {s t : State} (h : exec i s = .next t) : Effect s i t := by
  obtain ⟨u, hu, he⟩ := exec_effect s i
  exact Host.Outcome.next.inj (hu.symm.trans h) ▸ he

/-! ## The writers of each part

For each part, the instructions whose effect may change it; every other effect leaves it as it was. -/

section Writers

variable {s t : State} {i : Instr}

/-- R20: a register changes only by an instruction that may write it. -/
theorem Effect.reg_writer (h : Effect s i t) (r : RegIdx) (hr : t.reg r ≠ s.reg r) : WritesReg i r := by
  cases h with
  | regs v hv => exact hv r hr
  | load x v hv => exact hv r hr
  | random x nn a => exact writesReg_setReg (i := .rnd x nn) rfl s a r hr
  | key x a => exact writesReg_setReg (i := .ldVxK x) rfl s a r hr
  | draw x y n fb a => exact writesReg_setReg (i := .drw x y n) rfl s a r hr
  | _ => exact absurd rfl hr

/-- R82, R140: where the PC goes other than to PC + 2. -/
theorem Effect.pc_writer (h : Effect s i t) (hp : t.pc ≠ s.pc + 2#16) :
    i = .ret ∨ (∃ nnn, i = .jp nnn ∨ i = .call nnn ∨ i = .jpV0 nnn) ∨
    (t.pc = s.pc + 4#16 ∧ ∃ x y nn, i = .seImm x nn ∨ i = .sneImm x nn ∨ i = .seReg x y ∨ i = .sneReg x y ∨
      i = .skp x ∨ i = .sknp x) ∨
    (t.pc = s.pc ∧ ((∃ x, i = .ldVxK x) ∨ MayFault i)) := by
  have skipped : ∀ c : Bool, (s.pc + if c then 4#16 else 2#16) ≠ s.pc + 2#16 →
      (s.pc + if c then 4#16 else 2#16) = s.pc + 4#16 := by
    rintro (_ | _) hc
    · exact absurd rfl hc
    · rfl
  cases h with
  | ret => exact .inl rfl
  | call nnn => exact .inr (.inl ⟨nnn, .inr (.inl rfl)⟩)
  | jump a ha hi =>
    obtain ⟨nnn, hi⟩ := hi
    exact .inr (.inl ⟨nnn, hi.imp_right .inr⟩)
  | skip c hi =>
    obtain ⟨x, y, nn, hi⟩ := hi
    exact .inr (.inr (.inl ⟨skipped c hp, x, y, nn, hi.imp_right (.imp_right (.imp_right .inl))⟩))
  | keySkip c hi =>
    obtain ⟨x, hi⟩ := hi
    exact .inr (.inr (.inl ⟨skipped c hp, x, x, 0, .inr (.inr (.inr (.inr hi)))⟩))
  | wait x => exact .inr (.inr (.inr ⟨rfl, .inl ⟨x, rfl⟩⟩))
  | raise c info hi => exact .inr (.inr (.inr ⟨rfl, .inr hi⟩))
  | _ => exact absurd rfl hp

theorem Effect.stack_writer (h : Effect s i t) (hp : t.stack ≠ s.stack) : i = .ret ∨ ∃ nnn, i = .call nnn := by
  cases h with
  | ret => exact .inl rfl
  | call nnn => exact .inr ⟨nnn, rfl⟩
  | _ => exact absurd rfl hp

theorem Effect.screen_writer (h : Effect s i t) (hp : ¬ Part.Same .screen s t) :
    i = .cls ∨ ∃ x y n, i = .drw x y n := by
  cases h with
  | clear => exact .inl rfl
  | draw x y n => exact .inr ⟨x, y, n, rfl⟩
  | _ => exact absurd (fun _ _ => rfl) hp

theorem Effect.memory_writer (h : Effect s i t) (hp : ¬ Part.Same .memory s t) : ∃ x, i = .ldB x ∨ i = .ldMemVx x := by
  cases h with
  | bcd x => exact ⟨x, .inl rfl⟩
  | dump x => exact ⟨x, .inr rfl⟩
  | _ => exact absurd (fun _ => rfl) hp

theorem Effect.index_writer (h : Effect s i t) (hp : t.i ≠ s.i) :
    (∃ nnn, i = .ldI nnn) ∨ ∃ x, i = .addI x ∨ i = .ldF x ∨ i = .ldMemVx x ∨ i = .ldVxMem x := by
  cases h with
  | index a hi => exact hi.imp_right fun ⟨x, hx⟩ => ⟨x, hx.imp_right .inl⟩
  | dump x => exact .inr ⟨x, .inr (.inr (.inl rfl))⟩
  | load x => exact .inr ⟨x, .inr (.inr (.inr rfl))⟩
  | _ => exact absurd rfl hp

theorem Effect.delay_writer (h : Effect s i t) (hp : t.dtNs ≠ s.dtNs) : ∃ x, i = .ldDtVx x := by
  cases h with
  | delay x => exact ⟨x, rfl⟩
  | _ => exact absurd rfl hp

theorem Effect.sound_writer (h : Effect s i t) (hp : t.stNs ≠ s.stNs) : ∃ x, i = .ldStVx x := by
  cases h with
  | sound x => exact ⟨x, rfl⟩
  | _ => exact absurd rfl hp

theorem Effect.audio_writer (h : Effect s i t) (hp : t.playing ≠ s.playing) : ∃ x, i = .ldStVx x := by
  cases h with
  | sound x => exact ⟨x, rfl⟩
  | _ => exact absurd rfl hp

theorem Effect.fault_writer (h : Effect s i t) (hp : t.fault ≠ s.fault) : MayFault i := by
  cases h with
  | raise c info hi => exact hi
  | _ => exact absurd rfl hp

theorem Effect.draws_writer (h : Effect s i t) (hp : t.draws ≠ s.draws) :
    ∃ x nn, i = .rnd x nn ∨ i = .skp x ∨ i = .sknp x ∨ i = .ldVxK x := by
  cases h with
  | random x nn => exact ⟨x, nn, .inl rfl⟩
  | keySkip c hi =>
    obtain ⟨x, hi⟩ := hi
    exact ⟨x, 0, .inr (hi.imp_right .inl)⟩
  | wait x => exact ⟨x, 0, .inr (.inr (.inr rfl))⟩
  | key x => exact ⟨x, 0, .inr (.inr (.inr rfl))⟩
  | _ => exact absurd rfl hp

theorem Effect.diagnostics_writer (h : Effect s i t) (hp : t.diagnostics ≠ s.diagnostics) : ∃ w, i = .unknown w := by
  cases h with
  | unknown w => exact ⟨w, rfl⟩
  | _ => exact absurd rfl hp

/-- R42: the accumulator is the scheduler's. -/
theorem Effect.accNs_eq (h : Effect s i t) : t.accNs = s.accNs := by
  cases h <;> rfl

end Writers

/-- `WritesReg` as OnlyNamedInstructionsWrite spells it out. -/
theorem writesReg_named (i : Instr) (r : RegIdx) (h : WritesReg i r) :
    (∃ y nn, i = .ldImm r nn ∨ i = .addImm r nn ∨ i = .ldReg r y ∨ i = .or r y ∨ i = .and r y ∨ i = .xor r y ∨
      i = .addReg r y ∨ i = .sub r y ∨ i = .subn r y ∨ i = .shr r y ∨ i = .shl r y ∨ i = .rnd r nn ∨ i = .ldVxK r ∨
      i = .ldVxDt r) ∨
    (∃ x, i = .ldVxMem x ∧ r.toNat ≤ x.toNat) ∨
    (r = vf ∧ ∃ x y, i = .addReg x y ∨ i = .sub x y ∨ i = .subn x y ∨ i = .shr x y ∨ i = .shl x y ∨ ∃ n, i = .drw x y n) := by
  cases i <;> simp_all [WritesReg]

/-- `WritesReg` of VF as OnlyFlagWritersChangeVf spells it out: V0..Vx include VF for x = F only. -/
theorem writesReg_vf_named (i : Instr) (h : WritesReg i vf) :
    (∃ x y, i = .addReg x y ∨ i = .sub x y ∨ i = .subn x y ∨ i = .shr x y ∨ i = .shl x y ∨ ∃ n, i = .drw x y n) ∨
    (∃ y nn, i = .ldImm vf nn ∨ i = .addImm vf nn ∨ i = .ldReg vf y ∨ i = .or vf y ∨ i = .and vf y ∨ i = .xor vf y ∨
      i = .rnd vf nn ∨ i = .ldVxK vf ∨ i = .ldVxDt vf ∨ i = .ldVxMem vf) := by
  have last : ∀ x : RegIdx, vf.toNat ≤ x.toNat → x = vf := by decide
  cases i with
  | ldVxMem x => exact .inr ⟨0, 0, by simp [last x h]⟩
  | _ => simp_all [WritesReg]

/-- Settles O57: each clause is the writers of one part. -/
theorem onlyNamedInstructionsWrite : Obligations.OnlyNamedInstructionsWrite := by
  intro i s t h
  have he : Effect s i t := effect_of_exec h
  exact ⟨fun r hr => writesReg_named i r (he.reg_writer r hr), he.pc_writer, he.stack_writer, he.screen_writer,
    he.memory_writer, he.index_writer, he.delay_writer, he.sound_writer, he.audio_writer, he.fault_writer, he.draws_writer,
    he.diagnostics_writer, he.accNs_eq⟩

/-- Settles O58: the register writers of O57, for VF. -/
theorem onlyFlagWritersChangeVf : Obligations.OnlyFlagWritersChangeVf :=
  fun i _ _ h hr => writesReg_vf_named i ((effect_of_exec h).reg_writer vf hr)

/-! ## The invariant

`State.Bounds` is the part of the invariant that every instruction keeps by itself. The clause on the sound flag is restored by
the countdown at the end of the cycle, and the clause on the fault register is about a raised fault only. -/

/-- The invariant without its clauses on the sound flag and the fault register. -/
structure State.Bounds (s : State) : Prop where
  memWf : s.mem.wf
  pcBound : s.pc.toNat ≤ 0x10FE
  stackBound : ∀ a ∈ s.stack, a.toNat ≤ 4094
  dtBound : s.dtNs ≤ 255 * Config.timerTickNs
  stBound : s.stNs ≤ 255 * Config.timerTickNs
  accBound : s.accNs ≤ Config.tickDurationNs

theorem State.Inv.bounds {s : State} (h : s.Inv) : s.Bounds := { h with }

/-- A countdown restores the clause on the sound flag (R150, R153). -/
theorem State.Bounds.inv_timerCountdown {s : State} (h : s.Bounds) (hf : s.fault = none) (d : Nat) :
    (timerCountdown d s).Inv where
  memWf := h.memWf
  pcBound := h.pcBound
  stackBound := h.stackBound
  dtBound := by
    rw [timerCountdown_dtNs]
    exact (Nat.sub_le _ d).trans h.dtBound
  stBound := by
    rw [timerCountdown_stNs]
    exact (Nat.sub_le _ d).trans h.stBound
  silent := by
    intro hp
    rw [timerCountdown_playing, Bool.and_eq_true] at hp
    rw [timerCountdown_stNs, scaledTicks_eq]
    simpa only [Bool.not_eq_true', beq_eq_false_iff_ne] using hp.2
  accBound := h.accBound
  faultPc := fun r hr => absurd (hf.symm.trans hr) (Option.some_ne_none r).symm

/-- A fault raised at the PC keeps the invariant, as nothing else changes (R137, R140). -/
theorem State.Inv.setFault {s : State} (h : s.Inv) (r : FaultRecord) (hr : r.pc = s.pc) : (s.setFault (some r)).Inv :=
  { h with faultPc := fun _ hq => Option.some.inj hq ▸ hr }

/-- The scheduler's accumulator within D keeps the invariant (R154). -/
theorem State.Inv.setAcc {s : State} (h : s.Inv) (a : Nat) (ha : a ≤ Config.tickDurationNs) : (s.setAcc a).Inv :=
  { h with accBound := ha }

theorem inv_beginCycle {s : State} (h : s.Inv) : (beginCycle s).Inv :=
  { h with accBound := Nat.zero_le _ }

/-- An instruction that executes, with PC and PC + 1 in memory, keeps the bounds. -/
theorem Effect.bounds {i : Instr} {s t : State} (h : Effect s i t) (hs : s.Bounds) (hp : s.Fetchable) : t.Bounds := by
  have hpc : s.pc.toNat + 1 < 4096 := hp
  have hnext : (s.pc + 2#16).toNat ≤ 0x10FE := by
    rw [toNat_pc_add_two s.pc hp]
    omega
  have hskip : ∀ c : Bool, (s.pc + if c then 4#16 else 2#16).toNat ≤ 0x10FE := by
    rintro (_ | _)
    · exact hnext
    · exact (toNat_pc_add_four s.pc hp).trans_le (by omega)
  cases h with
  | raise | wait => exact { hs with }
  | skip c | keySkip c => exact { hs with pcBound := hskip c }
  | jump a ha => exact { hs with pcBound := ha }
  | call nnn =>
    refine { hs with pcBound := ?_, stackBound := ?_ }
    · have hn := nnn.isLt
      exact (toNat_addressOf nnn).trans_le (by omega)
    · intro a ha
      rcases List.mem_append.1 ha with ha | ha
      · exact hs.stackBound a ha
      · rw [List.mem_singleton.1 ha]
        omega
  | ret below a hstack =>
    have hall : ∀ b ∈ below ++ [a], b.toNat ≤ 4094 := hstack ▸ hs.stackBound
    have ha : a.toNat ≤ 4094 := hall a (by simp)
    refine { hs with pcBound := ?_, stackBound := fun b hb => hall b (List.mem_append_left _ hb) }
    exact (toNat_pc_add_two a (Nat.lt_of_le_of_lt (Nat.succ_le_succ ha) (by decide))).trans_le (by omega)
  | bcd x a bs | dump x a bs =>
    exact { hs with memWf := Memory.wf_writeBytes bs s.mem a hs.memWf, pcBound := hnext }
  | delay x => exact { hs with dtBound := setScaled_le _, pcBound := hnext }
  | sound x => exact { hs with stBound := setScaled_le _, pcBound := hnext }
  | _ => exact { hs with pcBound := hnext }

/-- A fault that an instruction of a running core leaves is recorded at the instruction's own address, and then nothing else has
changed (R137, R140). -/
theorem Effect.eq_setFault {i : Instr} {s t : State} (h : Effect s i t) (hs : s.fault = none) {r : FaultRecord}
    (hr : t.fault = some r) : r.pc = s.pc ∧ t = s.setFault (some r) := by
  cases h with
  | raise c info hi =>
    obtain rfl := Option.some.inj hr
    exact ⟨rfl, rfl⟩
  | _ => exact absurd (hs.symm.trans hr) (Option.some_ne_none r).symm

/-- A fetch reads two bytes of memory (R67). -/
theorem fetchable_of_fetchWord {s : State} {w : Word} (h : fetchWord s = some w) : s.Fetchable := by
  by_contra hn
  exact Option.some_ne_none w (h.symm.trans ((fetchWord_eq_none s).2 hn))

/-- Every cycle keeps the invariant, whatever its countdown amount. -/
theorem inv_of_cycle {d : Nat} {s t : State} (hs : s.Inv) (h : cycle d s = .next t) : t.Inv := by
  obtain ⟨hf, ⟨-, rfl⟩ | ⟨w, u, hw, hu, rfl⟩⟩ := cycle_next d s t h
  · exact hs.setFault _ rfl
  · have he : Effect s (decodeWord w) u := effect_of_exec hu
    cases hr : u.fault with
    | none =>
      rw [endCycle_of_none d u hr]
      exact (he.bounds hs.bounds (fetchable_of_fetchWord hw)).inv_timerCountdown hr d
    | some r =>
      obtain ⟨hpc, hset⟩ := he.eq_setFault hf hr
      rw [endCycle_of_some d u r hr, hset]
      exact hs.setFault r hpc

/-- Settles O55: a step is a cycle of the state the scheduler hands over. -/
theorem stepKeepsInvariant : Obligations.StepKeepsInvariant :=
  fun _ _ hs h => inv_of_cycle (inv_beginCycle hs) h

/-- An iteration that crossed the threshold keeps the invariant (R154, R155). -/
theorem inv_of_fireTick {d : Nat} {gate : Bool} {s t : State} (hs : s.Inv) (h : fireTick d gate s = .next t) : t.Inv := by
  have h0 : (s.setAcc 0).Inv := hs.setAcc 0 (Nat.zero_le _)
  unfold fireTick at h
  split_ifs at h
  · exact inv_of_cycle h0 h
  · exact Host.Outcome.next.inj h ▸ h0

/-- An iteration of either mode keeps the invariant: a sum that does not fire is at most D (R154, R155). -/
theorem inv_of_tick {delta : Nat} {gate : Bool} {s t : State} (hs : s.Inv) (h : tick delta gate s = .next t) : t.Inv := by
  unfold tick tickUncapped tickCapped at h
  split_ifs at h with hz hd
  · exact inv_of_fireTick hs h
  · exact inv_of_fireTick hs h
  · exact Host.Outcome.next.inj h ▸ hs.setAcc _ (Nat.le_of_not_lt hd)

/-- Settles O56, by induction on the list of iterations. -/
theorem ticksKeepInvariant : Obligations.TicksKeepInvariant := by
  intro inputs
  induction inputs with
  | nil =>
    intro s t hs h
    exact Host.Outcome.next.inj h ▸ hs
  | cons input rest ih =>
    intro s t hs h
    unfold runTicks at h
    split at h
    · rename_i u hu
      exact ih u t (inv_of_tick hs hu) h
    · cases h
    · cases h

/-- Settles O53: memory, the stack and the timers are empty, the sound flag and the fault register clear, and the PC is 512. -/
theorem resetMeetsInvariant : Obligations.ResetMeetsInvariant where
  memWf := reset_mem_wf
  pcBound := by decide
  stackBound := fun _ ha => absurd ha List.not_mem_nil
  dtBound := Nat.zero_le _
  stBound := Nat.zero_le _
  silent := fun h => absurd h Bool.false_ne_true
  accBound := Nat.zero_le _
  faultPc := fun r hr => absurd hr (Option.some_ne_none r).symm

theorem construct_eq_ok {f : ResetFill} {rom : List Byte} {s : State} (h : construct f (some rom) = .ok s) :
    s = bootState f rom := by
  simp only [construct] at h
  split_ifs at h
  exact (Except.ok.inj h).symm

/-- Settles O54: a new machine is the reset state but for what the fill and the ROM give, which R180 bounds. -/
theorem constructMeetsInvariant : Obligations.ConstructMeetsInvariant := by
  intro f rom s ⟨hdt, hst, hmem⟩ h
  obtain rfl := construct_eq_ok h
  exact { resetMeetsInvariant with
    memWf := bootMemory_wf f rom hmem
    dtBound := hdt
    stBound := hst
    silent := fun hp => absurd hp Bool.false_ne_true }

/-! ## Writing registers, and the arithmetic flag -/

/-- Writing registers and advancing changes the registers and the PC. -/
theorem onlyChanges_setV_advance (s : State) (v : Vector Byte 16) : OnlyChanges [.regs, .pc] s (s.setV v).advance := by
  simp [onlyChanges_iff]

/-- ADD Vx,Vy, SUB and SUBN with x other than F: the result into V[x], the flag into VF, every other register and part of the
state as it was, and the PC 2 further (R110). -/
theorem writeback_advance_spec (o : ArithVfOrder) {x : RegIdx} (a : Byte) (f : Bool) {s : State} (hs : s.Fetchable)
    (hx : x ≠ vf) :
    let t := (writeback o x a f s).advance
    t.reg x = a ∧ (t.reg vf).toNat = (if f = true then 1 else 0) ∧ (∀ r, r ≠ x → r ≠ vf → t.reg r = s.reg r) ∧
      t.pc.toNat = s.pc.toNat + 2 ∧ OnlyChanges [.regs, .pc] s t := by
  rw [writeback_of_ne o x a f s hx]
  refine ⟨?_, ?_, fun r hr hf => ?_, toNat_pc_add_two s.pc hs, onlyChanges_setV_advance s _⟩
  · rw [State.advance_reg, State.reg_setReg_other _ _ _ _ hx, State.reg_setReg_same]
  · rw [State.advance_reg, State.reg_setReg_same, toNat_bool01]
  · rw [State.advance_reg, State.reg_setReg_other _ _ _ _ hf, State.reg_setReg_other _ _ _ _ hr]

/-- Settles O25: the result is the sum modulo 256 and the flag is the carry (R109, R116). -/
theorem addSetsCarry : Obligations.AddSetsCarry := by
  intro x y s hs hx
  obtain ⟨hres, hflag, hrest⟩ :=
    writeback_advance_spec Config.arithVfOrder (s.reg x + s.reg y) (carryOut (s.reg x) (s.reg y)) hs hx
  refine ⟨_, rfl, ?_, ?_, hrest⟩
  · rw [hres, BitVec.toNat_add]
  · simpa only [carryOut_iff] using hflag

/-- A difference modulo 256 (R111, R112). -/
theorem toNat_sub_byte (a b : Byte) : (a - b).toNat = (a.toNat + 256 - b.toNat) % 256 := by
  have hb := b.isLt
  rw [BitVec.toNat_sub]
  congr 1
  omega

/-- SUB and SUBN with x other than F: the difference of their operands and its NOT-borrow (R111, R112). -/
theorem difference_advance_spec (a b : Byte) {x : RegIdx} {s : State} (hs : s.Fetchable) (hx : x ≠ vf) :
    let t := (writeback Config.arithVfOrder x (a - b) (noBorrow a b) s).advance
    (t.reg x).toNat = (a.toNat + 256 - b.toNat) % 256 ∧ (t.reg vf).toNat = (if b.toNat ≤ a.toNat then 1 else 0) ∧
      (∀ r, r ≠ x → r ≠ vf → t.reg r = s.reg r) ∧ t.pc.toNat = s.pc.toNat + 2 ∧ OnlyChanges [.regs, .pc] s t := by
  obtain ⟨hres, hflag, hrest⟩ := writeback_advance_spec Config.arithVfOrder (a - b) (noBorrow a b) hs hx
  refine ⟨?_, ?_, hrest⟩
  · rw [hres, toNat_sub_byte]
  · simpa only [noBorrow_iff] using hflag

/-- Settles O26: SUBN is SUB with the operands of the difference exchanged (R111, R112, R116). -/
theorem subtractSetsNoBorrow : Obligations.SubtractSetsNoBorrow := fun x y s hs hx =>
  ⟨⟨_, rfl, difference_advance_spec (s.reg x) (s.reg y) hs hx⟩, _, rfl,
    difference_advance_spec (s.reg y) (s.reg x) hs hx⟩

/-! ## CALL and RET -/

/-- Settles O17: the unbounded CALL pushes and jumps; a finite depth agrees with it below the depth and raises at it (R30, R95). -/
theorem callPushesOwnAddress : Obligations.CallPushesOwnAddress := by
  intro nnn s
  refine ⟨⟨_, exec_call nnn s, rfl, toNat_addressOf nnn, by simp [onlyChanges_iff]⟩, fun depth hd => ?_, fun depth hd => ?_⟩
  · have hfull : stackFull (some depth) s.stack.length = false := decide_eq_false (Nat.not_le.2 hd)
    simp [callUnder, hfull, exec_call]
  · have hfull : stackFull (some depth) s.stack.length = true := decide_eq_true hd.ge
    exact ⟨_, if_pos hfull, rfl, by simp [onlyChanges_iff]⟩

/-- Settles O19: the RET pops what the CALL pushed, the CALL's own address (R93, R95). -/
theorem callThenRetResumes : Obligations.CallThenRetResumes := by
  intro nnn s hs
  refine ⟨_, _, exec_call nnn s, exec_ret_append _ s.stack s.pc rfl, toNat_pc_add_two s.pc hs, ?_⟩
  simp [onlyChanges_iff]

/-! ## Timer primitives and reset values -/

/-- `get_scaled` within the bound of R33, where the tick count fits in 8 bits (R32). -/
theorem toNat_getScaled (ns : Nat) (h : ns ≤ 255 * Config.timerTickNs) : (getScaled ns).toNat = ns / Config.timerTickNs := by
  have hq : ns / Config.timerTickNs ≤ 255 := Nat.div_le_of_le_mul (by rwa [Nat.mul_comm])
  rw [getScaled, scaledTicks_eq, BitVec.toNat_ofNat]
  exact Nat.mod_eq_of_lt (by omega)

/-- `get_scaled` right after `set_scaled(v)` (R32). -/
theorem getScaled_setScaled (v : Byte) : getScaled (setScaled v) = v := by
  apply BitVec.eq_of_toNat_eq
  rw [toNat_getScaled _ (setScaled_le v)]
  exact Nat.mul_div_cancel _ timerTickNs_pos

/-- Settles O43: each primitive by its equation, and T and D are successors (R32). -/
theorem timerPrimitives : Obligations.TimerPrimitives := by
  refine ⟨fun v => ⟨rfl, getScaled_setScaled v⟩, toNat_getScaled, fun ns d => ?_, timerTickNs_pos, tickDurationNs_pos⟩
  rw [countdownNs_eq, Nat.zero_max]

/-- A register file of zeros reads 0 everywhere. -/
theorem reset_reg (r : RegIdx) : State.reset.reg r = 0#8 := Vector.getElem_replicate _

/-- A screen of zero rows has no pixel set (R91). -/
theorem pixel_clear (px py : Nat) : Framebuffer.clear.pixel px py = false := by
  unfold Framebuffer.pixel Framebuffer.clear
  split_ifs with h
  · rw [Vector.getElem_replicate]
    exact BitVec.getLsbD_zero
  · rfl

/-- Settles O50: memory lists nothing at reset, so it reads as the font below 80 and 0 elsewhere (R37, R44, R178). -/
theorem resetValues : Obligations.ResetValues := by
  refine ⟨rfl, rfl, rfl, rfl, rfl, fun a ha => ?_, rfl, fun a ha => ?_, reset_reg, rfl, rfl, rfl, pixel_clear⟩
  · exact if_pos ha
  · exact if_neg (Nat.not_lt.2 ha)

end Sys2Proof.Machine

/-! # Memory: cells, canonical form, range faults and stores (spec/20_memory.md) -/

namespace Sys2Proof.Machine

/-! ## One cell, and the canonical form -/

/-- Settles O39: the read after a write of R54, at the address itself and at every other one. -/
theorem writeChangesOneCell : Obligations.WriteChangesOneCell := by
  intro m a b ha
  have hsame : ∀ (m' : Memory) (c : Byte), (m'.write a c).read a = c := fun m' c =>
    (m'.read_write a a c ha).trans (if_pos rfl)
  exact ⟨hsame m b, fun k hk => m.read_write_other a k b hk, hsame (m.write a b)⟩

/-- An address that reads other than its reset contents is listed. -/
theorem Memory.mem_of_read_ne_unlisted {m : Memory} {a : Nat} (h : m.read a ≠ Memory.unlisted a) : (a, m.read a) ∈ m := by
  induction m with
  | nil => exact absurd rfl h
  | cons c m ih =>
    rw [Memory.read_cons] at h ⊢
    by_cases hc : c.1 = a
    · rw [if_pos hc, ← hc]
      exact List.mem_cons_self
    · rw [if_neg hc] at h ⊢
      exact List.mem_cons_of_mem _ (ih h)

/-- With rising addresses no listed cell is hidden behind another. -/
theorem Memory.read_of_mem {m : Memory} (h : m.Pairwise (fun c d => c.1 < d.1)) {c : Host.Cell} (hc : c ∈ m) :
    m.read c.1 = c.2 := by
  induction m with
  | nil => exact absurd hc List.not_mem_nil
  | cons d m ih =>
    obtain ⟨hd, hm⟩ := List.pairwise_cons.1 h
    rw [Memory.read_cons]
    rcases List.mem_cons.1 hc with rfl | hc
    · exact if_pos rfl
    · rw [if_neg (hd c hc).ne, ih hm hc]

/-- A cell of a canonical memory is a cell of every memory that reads the same. -/
theorem Memory.mem_of_read_eq {m n : Memory} (hm : m.wf) (h : ∀ a, a < Config.memSize → m.read a = n.read a)
    {c : Host.Cell} (hc : c ∈ m) : c ∈ n := by
  obtain ⟨hsorted, hcells⟩ := hm
  obtain ⟨hlt, hne⟩ := hcells c hc
  have hread : n.read c.1 = c.2 := (h c.1 hlt).symm.trans (Memory.read_of_mem hsorted hc)
  have hmem : (c.1, n.read c.1) ∈ n := Memory.mem_of_read_ne_unlisted (by rwa [hread])
  rwa [hread] at hmem

/-- Settles O40: memories that read the same list the same cells, and the rising order fixes where each stands. -/
theorem canonicalMemoryIsUnique : Obligations.CanonicalMemoryIsUnique := by
  intro m n hm hn h
  have : Std.Irrefl (fun c d : Host.Cell => c.1 < d.1) := ⟨fun c => lt_irrefl c.1⟩
  exact hm.1.eq_of_mem_iff hn.1 fun c =>
    ⟨Memory.mem_of_read_eq hm h, Memory.mem_of_read_eq hn fun a ha => (h a ha).symm⟩

/-! ## The range check of an instruction

An instruction with the two outcomes of R47 either raises on its failed range check or has its effect; which one, the base
address and the number of bytes decide. -/

section RangeCheck

variable {i : Instr} {s : State} {n : Nat} {effect : Prop}
  (hcases : (∃ a, rangeFault (baseAddress s) n = some a ∧ exec i s = raiseIn i .memoryOutOfRange a s) ∨
    (rangeFault (baseAddress s) n = none ∧ effect))

include hcases

/-- Some address does not exist: MemoryOutOfRange with the lowest such address, and only the fault register changes. -/
theorem exec_of_out_of_range (hn : n ≠ 0) (hr : 4096 < s.i.toNat + n) :
    ∃ t, exec i s = .next t ∧
      (∃ info : Word, info.toNat = max s.i.toNat 4096 ∧
        t.fault = some { cause := .memoryOutOfRange, pc := s.pc, word := some (encode i), info := info }) ∧
      OnlyChanges [.faultReg] s t := by
  obtain ⟨a, ha, hexec⟩ | ⟨hnone, -⟩ := hcases
  · obtain ⟨-, -, rfl⟩ := rangeFault_inv _ _ _ ha
    exact ⟨_, hexec, ⟨_, toNat_info s.i, rfl⟩, by simp [onlyChanges_iff]⟩
  · exact absurd ((rangeFault_eq_some _ _ hn hr).symm.trans hnone) (Option.some_ne_none _)

/-- Every address exists: the effect. -/
theorem effect_of_in_range (hr : s.i.toNat + n ≤ 4096) : effect := by
  obtain ⟨a, ha, -⟩ | ⟨-, heffect⟩ := hcases
  · obtain ⟨-, hlt, -⟩ := rangeFault_inv _ _ _ ha
    exact absurd hr (Nat.not_le.2 hlt)
  · exact heffect

end RangeCheck

/-- Settles O15: each of the four forms checks its range before any effect (R47, R138). -/
theorem memoryRangeFaults : Obligations.MemoryRangeFaults := by
  rintro s i count (⟨x, y, n, rfl, rfl, hn⟩ | ⟨x, rfl, rfl⟩ | ⟨x, rfl | rfl, rfl⟩) hr
  · exact exec_of_out_of_range (exec_drw_cases x y n s) (fun h => hn (BitVec.eq_of_toNat_eq h)) hr
  · exact exec_of_out_of_range (exec_ldB_cases x s) (by decide) hr
  · exact exec_of_out_of_range (exec_ldMemVx_cases x s) (Nat.succ_ne_zero _) hr
  · exact exec_of_out_of_range (exec_ldVxMem_cases x s) (Nat.succ_ne_zero _) hr

/-! ## Stores and later fetches -/

/-- LD [I],Vx and LD B,Vx in range put their bytes from I on, advance the PC and raise nothing (R127, R128). -/
theorem exec_store {s : State} {i : Instr} {stored : List Byte}
    (hi : (∃ x, i = .ldMemVx x ∧ stored = rangeBytes x s) ∨ (∃ x, i = .ldB x ∧ stored = bcdDigits (s.reg x)))
    (hr : s.i.toNat + stored.length ≤ 4096) :
    ∃ t, exec i s = .next t ∧ t.mem = s.mem.writeBytes s.i.toNat stored ∧ t.pc = s.pc + 2#16 ∧ t.fault = s.fault := by
  obtain ⟨x, rfl, rfl⟩ | ⟨x, rfl, rfl⟩ := hi
  · rw [rangeBytes_length] at hr
    exact ⟨_, effect_of_in_range (exec_ldMemVx_cases x s) hr, rfl, rfl, rfl⟩
  · exact ⟨_, effect_of_in_range (exec_ldB_cases x s) hr, rfl, rfl, rfl⟩

/-- A cycle executes the instruction it fetched and, when that raises nothing, counts down (R81). -/
theorem cycle_of_nextInstr {s t : State} {i : Instr} (d : Nat) (hf : s.fault = none) (hi : nextInstr s = some i)
    (ht : exec i s = .next t) (htf : t.fault = none) : cycle d s = .next (timerCountdown d t) := by
  obtain ⟨w, hw, rfl⟩ := Option.map_eq_some_iff.1 hi
  rw [cycle_of_fetch d s w hf hw, executeThen_next d _ s t ht, endCycle_of_none d t htf]

/-- A state whose next instruction is known fetches both its bytes. -/
theorem fetchable_of_nextInstr {s : State} {i : Instr} (hi : nextInstr s = some i) : s.Fetchable := by
  obtain ⟨w, hw, -⟩ := Option.map_eq_some_iff.1 hi
  exact fetchable_of_fetchWord hw

/-- Settles O60: the countdown leaves memory and the PC alone, and a fetch reads each of its two bytes from the memory the
store wrote (R63, R64). -/
theorem storeIsSeenByNextFetch : Obligations.StoreIsSeenByNextFetch := by
  intro d s i stored hf hi hform hr
  obtain ⟨t, ht, hmem, hpc, hfault⟩ := exec_store hform hr
  refine ⟨t, ht, cycle_of_nextInstr d hf hi ht (hfault.trans hf), ?_, fun u hu hfetch => ?_⟩
  · rw [hpc, toNat_pc_add_two s.pc (fetchable_of_nextInstr hi)]
  · have hread : ∀ k, u.mem.read k = if s.i.toNat ≤ k ∧ k < s.i.toNat + stored.length then
        stored.getD (k - s.i.toNat) 0#8 else s.mem.read k := by
      intro k
      rw [hu, timerCountdown_mem, hmem, Memory.read_writeBytes stored s.mem s.i.toNat k hr]
    exact ⟨_, _, fetchWord_of_fetchable u hfetch, hread _, hread _⟩

end Sys2Proof.Machine

/-! # Encoding: decoder, encoder and match/mask table agree, and the fetch before them (spec/30_encoding.md)

Every operand form of R71 to R76 is the top nibble before an address, a constant or two registers. The lemmas about these forms
read the fields off an encoded word, and put a word together again from its fields. -/

namespace Sys2Proof

/-- Settles O1: the decoder runs on each of the words. -/
theorem decodeReadsSpecWords : Obligations.DecodeReadsSpecWords := by
  unfold Obligations.DecodeReadsSpecWords
  decide

/-! ## The three forms and their fields -/

section Forms

variable (a d : BitVec 4) (x y : RegIdx) (nn : Byte) (nnn : BitVec 12)

@[simp] theorem opField_address : opField (a ++ nnn) = a := BitVec.extractLsb'_append_eq_left

@[simp] theorem nnnField_address : nnnField (a ++ nnn) = nnn := BitVec.extractLsb'_append_eq_right

@[simp] theorem opField_constant : opField (a ++ x ++ nn) = a := by
  obtain ⟨c, d, rfl⟩ := exists_nibbles8 nn
  rw [append_constant, opField_ofNibbles]

@[simp] theorem xField_constant : xField (a ++ x ++ nn) = x := by
  obtain ⟨c, d, rfl⟩ := exists_nibbles8 nn
  rw [append_constant, xField_ofNibbles]

@[simp] theorem nnField_constant : nnField (a ++ x ++ nn) = nn := BitVec.extractLsb'_append_eq_right

@[simp] theorem opField_registers : opField (a ++ x ++ y ++ d) = a := opField_ofNibbles a x y d

@[simp] theorem xField_registers : xField (a ++ x ++ y ++ d) = x := xField_ofNibbles a x y d

@[simp] theorem yField_registers : yField (a ++ x ++ y ++ d) = y := yField_ofNibbles a x y d

@[simp] theorem nField_registers : nField (a ++ x ++ y ++ d) = d := nField_ofNibbles a x y d

variable {a d nn} {w : Word}

theorem address_of_fields (ha : opField w = a) : a ++ nnnField w = w := by
  subst ha
  unfold opField nnnField
  rw [BitVec.extractLsb'_append_extractLsb'_eq_extractLsb' (by rfl)]
  simp

theorem constant_of_fields (ha : opField w = a) (hn : nnField w = nn) : a ++ xField w ++ nn = w := by
  subst ha hn
  unfold opField xField nnField
  rw [BitVec.extractLsb'_append_extractLsb'_eq_extractLsb' (by rfl),
    BitVec.extractLsb'_append_extractLsb'_eq_extractLsb' (by rfl)]
  simp

theorem registers_of_fields (ha : opField w = a) (hd : nField w = d) : a ++ xField w ++ yField w ++ d = w := by
  subst ha hd
  exact (ofNibbles_fields w).symm

end Forms

/-! ## Every word is that of its instruction, group by group -/

/-- The instruction is well formed and its word is `w`. -/
def IsWordOf (w : Word) (i : Instr) : Prop := i.wf = true ∧ encode i = w

/-- An UNKNOWN carries its word as it is, so its place in the UNKNOWN space is all there is to show (R77). -/
theorem isWordOf_unknown {w : Word} (h : inUnknownSpace w = true) : IsWordOf w (.unknown w) := ⟨h, rfl⟩

section Groups

variable {w : Word}

/-! `inUnknownSpace` extracts its fields itself; these name them as the decoder does (R68). -/

theorem extractLsb'_op : w.extractLsb' 12 4 = opField w := rfl

theorem extractLsb'_n : w.extractLsb' 0 4 = nField w := rfl

theorem extractLsb'_nn : w.extractLsb' 0 8 = nnField w := rfl

theorem isWordOf_decodeGroup0 (ho : opField w = 0x0#4) : IsWordOf w (decodeGroup0 w) := by
  unfold decodeGroup0
  split_ifs with hcls hret
  · exact ⟨rfl, hcls.symm⟩
  · exact ⟨rfl, hret.symm⟩
  · exact isWordOf_unknown (by simp [inUnknownSpace, extractLsb'_op, ho, hcls, hret])

theorem isWordOf_decodeGroup5 (ho : opField w = 0x5#4) : IsWordOf w (decodeGroup5 w) := by
  unfold decodeGroup5
  split_ifs with hn
  · exact ⟨rfl, registers_of_fields ho hn⟩
  · exact isWordOf_unknown (by simp [inUnknownSpace, extractLsb'_op, extractLsb'_n, ho, hn])

/-- The nine forms of the group have one shape; a low nibble that is none of theirs is one of the seven of R77. -/
theorem isWordOf_decodeGroup8 (ho : opField w = 0x8#4) : IsWordOf w (decodeGroup8 w) := by
  unfold decodeGroup8
  split
  iterate 9
    next hn => exact ⟨rfl, registers_of_fields ho (BitVec.eq_of_toNat_eq hn)⟩
  next =>
    refine isWordOf_unknown ?_
    simp only [imp_false] at *
    simp [inUnknownSpace, extractLsb'_op, extractLsb'_n, ho]
    bv_omega

theorem isWordOf_decodeGroup9 (ho : opField w = 0x9#4) : IsWordOf w (decodeGroup9 w) := by
  unfold decodeGroup9
  split_ifs with hn
  · exact ⟨rfl, registers_of_fields ho hn⟩
  · exact isWordOf_unknown (by simp [inUnknownSpace, extractLsb'_op, extractLsb'_n, ho, hn])

theorem isWordOf_decodeGroupE (ho : opField w = 0xE#4) : IsWordOf w (decodeGroupE w) := by
  unfold decodeGroupE
  split_ifs with hskp hsknp
  · exact ⟨rfl, constant_of_fields ho hskp⟩
  · exact ⟨rfl, constant_of_fields ho hsknp⟩
  · exact isWordOf_unknown (by simp [inUnknownSpace, extractLsb'_op, extractLsb'_nn, ho, hskp, hsknp])

/-- The nine forms of the group have one shape; a low byte that is none of theirs is in the UNKNOWN space. -/
theorem isWordOf_decodeGroupF (ho : opField w = 0xF#4) : IsWordOf w (decodeGroupF w) := by
  unfold decodeGroupF
  iterate 9
    refine iteInduction (motive := IsWordOf w) (fun hnn => ⟨rfl, constant_of_fields ho hnn⟩) fun _ => ?_
  exact isWordOf_unknown (by simp [inUnknownSpace, extractLsb'_op, extractLsb'_nn, *])

end Groups

/-- Every word is that of the instruction it decodes to: the cases are the sixteen groups, 0x0 to 0xF (R70 to R77). -/
theorem isWordOf_decodeWord (w : Word) : IsWordOf w (decodeWord w) := by
  unfold decodeWord
  split
  next ho => exact isWordOf_decodeGroup0 (BitVec.eq_of_toNat_eq ho)
  iterate 2 -- JP, CALL
    next ho => exact ⟨rfl, address_of_fields (BitVec.eq_of_toNat_eq ho)⟩
  iterate 2 -- SE and SNE with a constant
    next ho => exact ⟨rfl, constant_of_fields (BitVec.eq_of_toNat_eq ho) rfl⟩
  next ho => exact isWordOf_decodeGroup5 (BitVec.eq_of_toNat_eq ho)
  iterate 2 -- LD and ADD with a constant
    next ho => exact ⟨rfl, constant_of_fields (BitVec.eq_of_toNat_eq ho) rfl⟩
  next ho => exact isWordOf_decodeGroup8 (BitVec.eq_of_toNat_eq ho)
  next ho => exact isWordOf_decodeGroup9 (BitVec.eq_of_toNat_eq ho)
  iterate 2 -- LD I, JP V0
    next ho => exact ⟨rfl, address_of_fields (BitVec.eq_of_toNat_eq ho)⟩
  next ho => exact ⟨rfl, constant_of_fields (BitVec.eq_of_toNat_eq ho) rfl⟩
  next ho => exact ⟨rfl, registers_of_fields (BitVec.eq_of_toNat_eq ho) rfl⟩
  next ho => exact isWordOf_decodeGroupE (BitVec.eq_of_toNat_eq ho)
  next =>
    simp only [imp_false] at *
    exact isWordOf_decodeGroupF (by bv_omega)

/-- Settles O3. -/
theorem encodeOfDecode : Obligations.EncodeOfDecode := isWordOf_decodeWord

/-! ## The match/mask table -/

/-- A row of R86 selects the word of a well-formed instruction exactly when it is that instruction's row. -/
theorem selects_encode : ∀ i : Instr, Laws.Encoding.Statement i
  | .cls => Laws.Encoding.cls
  | .ret => Laws.Encoding.ret
  | .jp nnn => Laws.Encoding.jp nnn
  | .call nnn => Laws.Encoding.call nnn
  | .seImm x nn => Laws.Encoding.seImm x nn
  | .sneImm x nn => Laws.Encoding.sneImm x nn
  | .seReg x y => Laws.Encoding.seReg x y
  | .ldImm x nn => Laws.Encoding.ldImm x nn
  | .addImm x nn => Laws.Encoding.addImm x nn
  | .ldReg x y => Laws.Encoding.ldReg x y
  | .or x y => Laws.Encoding.or x y
  | .and x y => Laws.Encoding.and x y
  | .xor x y => Laws.Encoding.xor x y
  | .addReg x y => Laws.Encoding.addReg x y
  | .sub x y => Laws.Encoding.sub x y
  | .shr x y => Laws.Encoding.shr x y
  | .subn x y => Laws.Encoding.subn x y
  | .shl x y => Laws.Encoding.shl x y
  | .sneReg x y => Laws.Encoding.sneReg x y
  | .ldI nnn => Laws.Encoding.ldI nnn
  | .jpV0 nnn => Laws.Encoding.jpV0 nnn
  | .rnd x nn => Laws.Encoding.rnd x nn
  | .drw x y n => Laws.Encoding.drw x y n
  | .skp x => Laws.Encoding.skp x
  | .sknp x => Laws.Encoding.sknp x
  | .ldVxDt x => Laws.Encoding.ldVxDt x
  | .ldVxK x => Laws.Encoding.ldVxK x
  | .ldDtVx x => Laws.Encoding.ldDtVx x
  | .ldStVx x => Laws.Encoding.ldStVx x
  | .addI x => Laws.Encoding.addI x
  | .ldF x => Laws.Encoding.ldF x
  | .ldB x => Laws.Encoding.ldB x
  | .ldMemVx x => Laws.Encoding.ldMemVx x
  | .ldVxMem x => Laws.Encoding.ldVxMem x
  | .unknown w => Laws.Encoding.unknown w

/-- A row of R86 selects a word exactly when the word decodes to that row's instruction. -/
theorem selects_eq_mnemonic_decodeWord (w : Word) (r : OpcodeRow) (hr : r ∈ opcodeRows) :
    r.selects w = (r.mnemonic == (decodeWord w).mnemonic) := by
  obtain ⟨hwf, he⟩ := isWordOf_decodeWord w
  have h := selects_encode (decodeWord w) hwf r hr
  rwa [he] at h

theorem mnemonic_ne_unknown_of_mem : ∀ r ∈ opcodeRows, r.mnemonic ≠ "UNKNOWN" := by decide

/-- Every instruction but UNKNOWN has a row in the table of R86. -/
theorem eq_unknown_or_exists_row (i : Instr) : (∃ w, i = .unknown w) ∨ ∃ r ∈ opcodeRows, r.mnemonic = i.mnemonic := by
  cases i with
  | unknown w => exact .inl ⟨w, rfl⟩
  | _ =>
    refine .inr ?_
    simp only [Instr.mnemonic]
    decide

/-- A word that no row selects decodes to UNKNOWN, with itself as the operand (R77, R86). -/
theorem decodeWord_eq_unknown {w : Word} (h : ∀ r ∈ opcodeRows, r.selects w = false) : decodeWord w = .unknown w := by
  obtain ⟨v, hv⟩ | ⟨r, hr, hm⟩ := eq_unknown_or_exists_row (decodeWord w)
  · have he := (isWordOf_decodeWord w).2
    rw [hv] at he ⊢
    exact congrArg Instr.unknown he
  · have hs := h r hr
    rw [selects_eq_mnemonic_decodeWord w r hr, hm, beq_self_eq_true] at hs
    contradiction

/-- Settles O4: every word is that of its instruction, whose word its own row selects and no other. -/
theorem decodeFollowsMatchMask : Obligations.DecodeFollowsMatchMask := by
  intro w
  refine ⟨fun r hr => ?_, fun hm r hr => ?_, fun h => ?_⟩
  · rw [selects_eq_mnemonic_decodeWord w r hr, beq_iff_eq, eq_comm]
  · rw [selects_eq_mnemonic_decodeWord w r hr, hm]
    exact beq_eq_false_iff_ne.2 (mnemonic_ne_unknown_of_mem r hr)
  · rw [decodeWord_eq_unknown h]
    rfl

/-! ## Decoding an encoded instruction -/

/-- Settles O2: the decoder reads back the fields of each form, and finds no row for a word of the UNKNOWN space. -/
theorem decodeOfEncode : Obligations.DecodeOfEncode := by
  intro i hi
  cases i with
  | cls | ret => rfl
  | jp nnn | call nnn | ldI nnn | jpV0 nnn => simp [encode, decodeWord]
  | seImm x nn | sneImm x nn | ldImm x nn | addImm x nn | rnd x nn => simp [encode, decodeWord]
  | drw x y n => simp [encode, decodeWord]
  | seReg x y => simp [encode, decodeWord, decodeGroup5]
  | ldReg x y | or x y | and x y | xor x y | addReg x y | sub x y | shr x y | subn x y | shl x y =>
    simp [encode, decodeWord, decodeGroup8]
  | sneReg x y => simp [encode, decodeWord, decodeGroup9]
  | skp x | sknp x => simp [encode, decodeWord, decodeGroupE]
  | ldVxDt x | ldVxK x | ldDtVx x | ldStVx x | addI x | ldF x | ldB x | ldMemVx x | ldVxMem x =>
    simp [encode, decodeWord, decodeGroupF]
  | unknown w => exact decodeWord_eq_unknown fun r hr => Laws.Encoding.not_selects_of_unknown r hr w hi

end Sys2Proof

namespace Sys2Proof.Machine

/-! ## The fetch -/

/-- A word is its first byte times 256 plus its second (R51, R67). -/
theorem toNat_wordOfBytes (hi lo : Byte) : (wordOfBytes hi lo).toNat = hi.toNat * 256 + lo.toNat := by
  rw [wordOfBytes, BitVec.toNat_append, ← Nat.shiftLeft_add_eq_or_of_lt lo.isLt, Nat.shiftLeft_eq]

/-- A step of a running core whose fetch fails raises FetchOutOfRange in the state the scheduler hands over (R67). -/
theorem step_of_fetch_none (s : State) (hf : s.fault = none) (hw : fetchWord s = none) :
    step s = .next ((beginCycle s).setFault
      (some ⟨.fetchOutOfRange, s.pc, none, BitVec.ofNat 16 (max s.pc.toNat Config.memSize)⟩)) := by
  have hf' : (beginCycle s).fault = none := hf
  simp only [step, cycle, hf', fetchWord_beginCycle, hw]
  rfl

theorem onlyChanges_setFault (s : State) (r : Option FaultRecord) : OnlyChanges [.faultReg] s (s.setFault r) := by
  simp [onlyChanges_iff]

/-- Settles O6: the two outcomes of the fetch, the failed one on top of the scheduler's part of the step. -/
theorem fetchReadsWordOrFaults : Obligations.FetchReadsWordOrFaults := by
  intro s
  refine ⟨fun hs => ⟨_, fetchWord_of_fetchable s hs, toNat_wordOfBytes _ _⟩, fun hs hf => ?_⟩
  refine ⟨_, step_of_fetch_none s hf ((fetchWord_eq_none s).2 hs), ⟨_, toNat_info s.pc, rfl⟩, ?_⟩
  have hbegin := (onlyChanges_beginCycle s).mono (qs := [.faultReg, .accumulator, .draws]) (by decide)
  exact hbegin.trans ((onlyChanges_setFault _ _).mono (by decide))

end Sys2Proof.Machine

/-! # Display: CLS and DRW (spec/40_display.md)

`drawSprite` by its parts, a blit of bytes read from memory, and a blit that starts past the edge of the screen. -/

namespace Sys2Proof.Machine

/-- CLS changes the screen and the PC only. -/
theorem onlyChanges_setFb_advance (s : State) (fb : Framebuffer) : OnlyChanges [.screen, .pc] s (s.setFb fb).advance := by
  simp [onlyChanges_iff]

/-- Settles O12: the screen CLS stores has no pixel set (R87, R91). -/
theorem clsClearsScreen : Obligations.ClsClearsScreen := fun s hs =>
  ⟨(s.setFb Framebuffer.clear).advance, rfl, pixel_clear, toNat_pc_add_two s.pc hs, onlyChanges_setFb_advance s _⟩

/-! ## The parts of a drawn state -/

section DrawSprite

variable (cx cy : Nat) (rows : List Byte) (s : State)

@[simp] theorem drawSprite_fb : (drawSprite cx cy rows s).fb = (blit cx cy rows s.fb).1 := rfl

@[simp] theorem drawSprite_pc : (drawSprite cx cy rows s).pc = s.pc + 2#16 := rfl

/-- VF is the collision (R88). -/
@[simp] theorem drawSprite_reg_vf : (drawSprite cx cy rows s).reg vf = bool01 (blit cx cy rows s.fb).2 :=
  State.reg_setReg_same _ _ _

theorem drawSprite_reg_other (r : RegIdx) (hr : r ≠ vf) : (drawSprite cx cy rows s).reg r = s.reg r :=
  State.reg_setReg_other _ _ _ _ hr

theorem onlyChanges_drawSprite : OnlyChanges [.regs, .screen, .pc] s (drawSprite cx cy rows s) := by
  simp [onlyChanges_iff, drawSprite]

end DrawSprite

/-- With its rows in memory, or none to read, DRW draws them (R47, R88). -/
theorem exec_drw_of_in_range (x y : RegIdx) {n : BitVec 4} {s : State} (h : n = 0#4 ∨ s.i.toNat + n.toNat ≤ 4096) :
    exec (.drw x y n) s =
      .next (drawSprite (s.reg x).toNat (s.reg y).toNat (s.mem.readBytes s.i.toNat n.toNat) s) := by
  have hnone : rangeFault (baseAddress s) n.toNat = none :=
    (rangeFault_eq_none _ _).2 (h.imp_left (congrArg BitVec.toNat))
  obtain ⟨a, ha, -⟩ | ⟨-, hexec⟩ := exec_drw_cases x y n s
  · exact absurd (ha.symm.trans hnone) (Option.some_ne_none a)
  · exact hexec

/-! ## A blit of bytes read from memory -/

/-- Row `r` of a sprite read from address `a` on is the byte at `a + r` (R89). -/
theorem spriteBit_readBytes (m : Memory) (a c : Nat) {n r : Nat} (h : r < n) :
    spriteBit (m.readBytes a n) r c = (m.read (a + r)).getLsbD (7 - c) := by
  rw [spriteBit, Memory.readBytes_getD m a n r h]

/-- A pixel of the screen after a blit of `n` rows from address `a` on (R89). -/
theorem pixel_blit_readBytes (cx cy a n : Nat) (m : Memory) (fb : Framebuffer) {px py : Nat} (hx : px < 64) (hy : py < 32) :
    (blit cx cy (m.readBytes a n) fb).1.pixel px py =
      (fb.pixel px py ^^ (decide (cx ≤ px) && decide (px < cx + 8) && decide (cy ≤ py) && decide (py < cy + n) &&
        (m.read (a + (py - cy))).getLsbD (7 - (px - cx)))) := by
  obtain ⟨hpixel, -⟩ := blit_spec cx cy (m.readBytes a n) fb
  rw [hpixel px py hx hy, Memory.readBytes_length, Bool.xor_right_inj, Bool.eq_iff_iff]
  simp only [Bool.and_eq_true, decide_eq_true_eq, and_congr_right_iff]
  rintro ⟨⟨-, htop⟩, hbottom⟩
  rw [spriteBit_readBytes m a _ (by omega)]

/-- The collision as 1 or 0: some pixel of the screen went from 1 to 0, or every pixel that was 1 still is (R89). -/
theorem bool01_blit_cases (cx cy : Nat) (rows : List Byte) (fb : Framebuffer) :
    let drawn := blit cx cy rows fb
    (bool01 drawn.2 = 1#8 ∧ ∃ px py, px < 64 ∧ py < 32 ∧ fb.pixel px py = true ∧ drawn.1.pixel px py = false) ∨
    (bool01 drawn.2 = 0#8 ∧ ∀ px py, px < 64 → py < 32 → fb.pixel px py = true → drawn.1.pixel px py = true) := by
  intro drawn
  obtain ⟨-, hcollision⟩ := blit_spec cx cy rows fb
  by_cases h : drawn.2 = true
  · exact .inl ⟨congrArg bool01 h, hcollision.1 h⟩
  · refine .inr ⟨congrArg bool01 (Bool.eq_false_of_not_eq_true h), fun px py hx hy hset => ?_⟩
    by_contra hclear
    exact h (hcollision.2 ⟨px, py, hx, hy, hset, Bool.eq_false_of_not_eq_true hclear⟩)

/-- Settles O13: in range DRW is `drawSprite` with the old coordinates, and its parts are the blit and the collision. -/
theorem drwXorsSprite : Obligations.DrwXorsSprite := by
  intro s x y n hs hrange
  refine ⟨_, exec_drw_of_in_range x y hrange, fun px py hx hy => ?_, ?_, ?_, ?_, onlyChanges_drawSprite _ _ _ s⟩
  · rw [drawSprite_fb]
    exact pixel_blit_readBytes _ _ _ _ _ _ hx hy
  · rw [drawSprite_reg_vf, drawSprite_fb]
    exact bool01_blit_cases _ _ _ _
  · exact drawSprite_reg_other _ _ _ s
  · rw [drawSprite_pc]
    exact toNat_pc_add_two s.pc hs

/-! ## A start coordinate past the edge -/

section PastTheEdge

variable {cx cy : Nat} (h : 64 ≤ cx ∨ 32 ≤ cy) (rows : List Byte)

include h

/-- From a start past the edge every position is off the screen and is dropped (R90). -/
theorem blitPixel_of_past_edge (acc : Framebuffer × Bool) (rc : Nat × Nat) : blitPixel cx cy rows acc rc = acc := by
  have hoff : ¬ (cx + rc.2 < Config.screenW ∧ cy + rc.1 < Config.screenH) := by
    simp only [Config.screenW, Config.screenH]
    omega
  refine if_neg fun hon => hoff ?_
  simp only [Bool.and_eq_true, decide_eq_true_eq] at hon
  obtain ⟨⟨-, hcol⟩, hrow⟩ := hon
  exact ⟨hcol, hrow⟩

/-- A blit that starts past the edge draws nothing and does not collide (R90). -/
theorem blit_of_past_edge (fb : Framebuffer) : blit cx cy rows fb = (fb, false) :=
  List.foldl_fixed' (blitPixel_of_past_edge h rows (fb, false)) _

/-- A draw that starts past the edge writes 0 to VF and advances (R88, R90). -/
theorem drawSprite_of_past_edge (s : State) : drawSprite cx cy rows s = (s.setReg vf 0#8).advance := by
  rw [drawSprite, blit_of_past_edge h]
  rfl

end PastTheEdge

/-- Settles O14: the start coordinates are the register values as they are, so past the edge only VF and the PC are written. -/
theorem drwPastTheEdgeDrawsNothing : Obligations.DrwPastTheEdgeDrawsNothing := by
  intro s x y n hrange hedge
  refine ⟨(s.setReg vf 0#8).advance, ?_, State.reg_setReg_same s vf _, fun r hr => State.reg_setReg_other s vf r _ hr,
    onlyChanges_setV_advance s _⟩
  rw [exec_drw_of_in_range x y hrange, drawSprite_of_past_edge hedge]

end Sys2Proof.Machine

/-! # Control flow: JP, JP V0 and RET (spec/41_control_flow.md) -/

namespace Sys2Proof.Machine

/-- A jump changes the PC only. -/
theorem onlyChanges_setPc (s : State) (a : Word) : OnlyChanges [.pc] s (s.setPc a) := by
  simp [onlyChanges_iff]

/-- Settles O16: both forms set the PC and nothing else, and neither target wraps (R94, R96). -/
theorem jumpsSetPc : Obligations.JumpsSetPc := fun nnn s =>
  ⟨⟨s.setPc (addressOf nnn), rfl, toNat_addressOf nnn, onlyChanges_setPc s _⟩,
    ⟨s.setPc (addressOf nnn + (s.reg 0#4).setWidth 16), rfl, toNat_jpV0_target nnn (s.reg 0#4), onlyChanges_setPc s _⟩⟩

/-- RET from an empty stack (R93). -/
theorem exec_ret_of_stack_eq_nil (s : State) (h : s.stack = []) :
    exec .ret s = raiseIn .ret .stackUnderflow 0#16 s := by
  obtain ⟨-, hexec⟩ | ⟨a, t, hpop, -⟩ := exec_ret_cases s
  · exact hexec
  · obtain ⟨below, hstack, -⟩ := (pop?_eq_some s a t).1 hpop
    exact absurd (hstack.symm.trans h) (List.concat_ne_nil a below)

/-- The address RET resumes at does not wrap for a popped value within the bound of the stack (R93). -/
theorem toNat_return_target {a : Word} (ha : a.toNat ≤ 4094) : (a + 2#16).toNat = a.toNat + 2 :=
  toNat_pc_add_two a (Nat.lt_of_le_of_lt (Nat.succ_le_succ ha) (by decide))

/-- Settles O18: a stack with a last entry is popped, and an empty one raises the fault with the word of RET (R93). -/
theorem retPopsAndAdvances : Obligations.RetPopsAndAdvances := by
  refine fun s => ⟨fun below a hstack ha => ?_, fun hempty => ?_⟩
  · exact ⟨_, exec_ret_append s below a hstack, rfl, toNat_return_target ha, by simp [onlyChanges_iff]⟩
  · exact ⟨_, exec_ret_of_stack_eq_nil s hempty, rfl, onlyChanges_setFault s _⟩

end Sys2Proof.Machine

/-! # Compare and skip: SE and SNE (spec/42_compare_skip.md) -/

namespace Sys2Proof.Machine

/-! ## The PC after a skip -/

/-- A skip taken goes 4 further where an instruction can execute (R26). -/
theorem toNat_pc_skipIf_of_true {s : State} (hs : s.Fetchable) {c : Bool} (hc : c = true) :
    (s.skipIf c).pc.toNat = s.pc.toNat + 4 := by
  rw [State.skipIf_pc, if_pos hc]
  exact toNat_pc_add_four s.pc hs

/-- A skip not taken goes 2 further, as any other instruction (R26, R82). -/
theorem toNat_pc_skipIf_of_false {s : State} (hs : s.Fetchable) {c : Bool} (hc : c = false) :
    (s.skipIf c).pc.toNat = s.pc.toNat + 2 := by
  rw [State.skipIf_pc, if_neg (Bool.eq_false_iff.1 hc)]
  exact toNat_pc_add_two s.pc hs

/-! ## Comparing two bytes -/

/-- SE, whatever the two bytes compared: it skips when they are equal (R98, R100). -/
theorem skipIf_eq_spec (a b : Byte) {s : State} (hs : s.Fetchable) :
    let t := s.skipIf (a == b)
    (a = b → t.pc.toNat = s.pc.toNat + 4) ∧ (a ≠ b → t.pc.toNat = s.pc.toNat + 2) ∧ OnlyChanges [.pc] s t :=
  ⟨fun h => toNat_pc_skipIf_of_true hs (beq_iff_eq.2 h), fun h => toNat_pc_skipIf_of_false hs (beq_false_of_ne h),
    onlyChanges_setPc s _⟩

/-- SNE, whatever the two bytes compared: it skips when they differ (R99, R101). -/
theorem skipIf_ne_spec (a b : Byte) {s : State} (hs : s.Fetchable) :
    let t := s.skipIf (a != b)
    (a ≠ b → t.pc.toNat = s.pc.toNat + 4) ∧ (a = b → t.pc.toNat = s.pc.toNat + 2) ∧ OnlyChanges [.pc] s t :=
  ⟨fun h => toNat_pc_skipIf_of_true hs (bne_iff_ne.2 h), fun h => toNat_pc_skipIf_of_false hs (bne_eq_false_iff_eq.2 h),
    onlyChanges_setPc s _⟩

/-- Settles O20: SE and SNE of V[x] with the constant (R98, R99). -/
theorem constantSkips : Obligations.ConstantSkips := fun x nn s hs =>
  ⟨⟨_, rfl, skipIf_eq_spec (s.reg x) nn hs⟩, ⟨_, rfl, skipIf_ne_spec (s.reg x) nn hs⟩⟩

/-- Settles O21: SE and SNE of V[x] with V[y], which may be the same register (R100, R101). -/
theorem registerSkips : Obligations.RegisterSkips := fun x y s hs =>
  ⟨⟨_, rfl, skipIf_eq_spec (s.reg x) (s.reg y) hs⟩, ⟨_, rfl, skipIf_ne_spec (s.reg x) (s.reg y) hs⟩⟩

end Sys2Proof.Machine

/-! # ALU: loads, ADD nn, bitwise, writeback into VF, shifts and RND (spec/43_alu.md)

Each group is one lemma about the state it ends in: one register written, the writeback of R110 with x = F, the two writes
of a shift. -/

namespace Sys2Proof.Machine

/-! ## One register written -/

/-- Writing V[x] and advancing leaves every other register, VF included, and every other part as it was. -/
theorem setReg_advance_frame (x : RegIdx) (a : Byte) {s : State} (hs : s.Fetchable) :
    let t := (s.setReg x a).advance
    (∀ r, r ≠ x → t.reg r = s.reg r) ∧ t.pc.toNat = s.pc.toNat + 2 ∧ OnlyChanges [.regs, .pc] s t :=
  ⟨fun r hr => State.reg_setReg_other s x r a hr, toNat_pc_add_two s.pc hs, onlyChanges_setV_advance s _⟩

/-- Settles O22: the value written is the constant, or V[y] (R103, R105). -/
theorem registerLoads : Obligations.RegisterLoads := fun x y nn s hs =>
  ⟨⟨_, rfl, State.reg_setReg_same s x nn, setReg_advance_frame x nn hs⟩,
    ⟨_, rfl, State.reg_setReg_same s x (s.reg y), setReg_advance_frame x (s.reg y) hs⟩⟩

/-- Settles O23: the byte written is the sum of two bytes, and nothing else is written (R104). -/
theorem addConstantSetsNoFlag : Obligations.AddConstantSetsNoFlag := by
  intro x nn s hs
  refine ⟨_, rfl, ?_, setReg_advance_frame x (s.reg x + nn) hs⟩
  rw [State.advance_reg, State.reg_setReg_same, BitVec.toNat_add]

/-- A byte written to V[x] is read back bit by bit. -/
theorem setReg_advance_bits (x : RegIdx) {a : Byte} {bit : Nat → Bool} (hbit : ∀ k, a.getLsbD k = bit k) {s : State}
    (hs : s.Fetchable) :
    let t := (s.setReg x a).advance
    (∀ k, (t.reg x).getLsbD k = bit k) ∧ (∀ r, r ≠ x → t.reg r = s.reg r) ∧ t.pc.toNat = s.pc.toNat + 2 ∧
      OnlyChanges [.regs, .pc] s t := by
  refine ⟨fun k => ?_, setReg_advance_frame x a hs⟩
  rw [State.advance_reg, State.reg_setReg_same, hbit]

/-- Settles O24: the bits of the byte written are the or, the and, the xor of the operands' bits (R106, R107, R108). -/
theorem bitwiseSetsNoFlag : Obligations.BitwiseSetsNoFlag := fun x _ _ hs =>
  ⟨⟨_, rfl, setReg_advance_bits x (fun _ => BitVec.getLsbD_or) hs⟩,
    ⟨_, rfl, setReg_advance_bits x (fun _ => BitVec.getLsbD_and) hs⟩,
    ⟨_, rfl, setReg_advance_bits x (fun _ => BitVec.getLsbD_xor) hs⟩⟩

/-- Settles O29: the byte written is the draw masked by nn, and the draw counter moves on by one (R115, R167). -/
theorem randomIsMaskedDraw : Obligations.RandomIsMaskedDraw := by
  intro x nn s hs
  obtain ⟨hother, hpc, -⟩ := setReg_advance_frame x (drawByte s &&& nn) hs
  refine ⟨_, rfl, fun k => ?_, rfl, hother, hpc, by simp [onlyChanges_iff]⟩
  rw [State.advance_reg, State.nextDraw_reg, State.reg_setReg_same, BitVec.getLsbD_and, drawByte]

/-! ## The writeback of a result and a flag into VF -/

/-- The carry as a number (R109, R116). -/
theorem toNat_bool01_carryOut (a b : Byte) : (bool01 (carryOut a b)).toNat = if 255 < a.toNat + b.toNat then 1 else 0 := by
  simp only [toNat_bool01, carryOut_iff]

/-- The NOT-borrow as a number (R111, R116). -/
theorem toNat_bool01_noBorrow (a b : Byte) : (bool01 (noBorrow a b)).toNat = if b.toNat ≤ a.toNat then 1 else 0 := by
  simp only [toNat_bool01, noBorrow_iff]

/-- With x = F the last write of the order is what VF reads as (R110). -/
theorem reg_vf_writeback_vf (o : ArithVfOrder) (a : Byte) (f : Bool) (s : State) :
    (writeback o vf a f s).reg vf = match o with | .flagLast => bool01 f | .resultLast => a := by
  rw [writeback_vf]
  exact State.reg_setReg_same s vf _

/-- ADD Vx,Vy, SUB and SUBN with x = F: the order says which of the flag and the result VF ends as, and no other register is
written (R110). -/
theorem writeback_vf_advance_spec (o : ArithVfOrder) {a : Byte} {f : Bool} {result flag : Nat} (ha : a.toNat = result)
    (hf : (bool01 f).toNat = flag) {s : State} (hs : s.Fetchable) :
    let t := (writeback o vf a f s).advance
    ((t.reg vf).toNat = match o with | .flagLast => flag | .resultLast => result) ∧
      (∀ r, r ≠ vf → t.reg r = s.reg r) ∧ t.pc.toNat = s.pc.toNat + 2 ∧ OnlyChanges [.regs, .pc] s t := by
  refine ⟨?_, ?_⟩
  · rw [State.advance_reg, reg_vf_writeback_vf]
    cases o with
    | flagLast => exact hf
    | resultLast => exact ha
  · rw [writeback_vf]
    exact setReg_advance_frame vf _ hs

/-- Settles O27: each of the three instructions is a writeback of its result and flag, whatever the order is (R110). -/
theorem arithmeticIntoVf : Obligations.ArithmeticIntoVf := by
  refine ⟨?_, fun order x result flag s => ⟨fun hx => ?_,
    reg_vf_writeback_vf .flagLast result flag s, reg_vf_writeback_vf .resultLast result flag s⟩⟩
  · rintro y s i _ _ hs (⟨rfl, rfl, rfl⟩ | ⟨rfl, rfl, rfl⟩ | ⟨rfl, rfl, rfl⟩)
    · exact ⟨_, rfl, writeback_vf_advance_spec _ (BitVec.toNat_add _ _) (toNat_bool01_carryOut _ _) hs⟩
    · exact ⟨_, rfl, writeback_vf_advance_spec _ (toNat_sub_byte _ _) (toNat_bool01_noBorrow _ _) hs⟩
    · exact ⟨_, rfl, writeback_vf_advance_spec _ (toNat_sub_byte _ _) (toNat_bool01_noBorrow _ _) hs⟩
  · rw [writeback_of_ne order x result flag s hx, State.reg_setReg_other _ _ _ _ hx]
    exact ⟨State.reg_setReg_same s x result, State.reg_setReg_same _ vf _⟩

/-! ## Shifts -/

/-- The result of SHR (R113). -/
theorem toNat_shiftRight_one (a : Byte) : (a >>> 1).toNat = a.toNat / 2 := by
  rw [BitVec.toNat_ushiftRight, Nat.shiftRight_one]

/-- The bit SHR ejects is the remainder of the halving (R113). -/
theorem toNat_ejectedRight (a : Byte) : (ejectedRight a).toNat = a.toNat % 2 := by
  rw [ejectedRight, BitVec.toNat_and]
  exact Nat.and_one_is_mod a.toNat

/-- The result of SHL (R114). -/
theorem toNat_shiftLeft_one (a : Byte) : (a <<< 1).toNat = a.toNat * 2 % 256 := by
  rw [BitVec.toNat_shiftLeft, Nat.shiftLeft_eq]

/-- The bit SHL ejects is what the doubling carries out: a byte has no bit above bit 7 (R114). -/
theorem toNat_ejectedLeft (a : Byte) : (ejectedLeft a).toNat = a.toNat / 128 := by
  have hmod : (ejectedLeft a).toNat = a.toNat / 128 % 2 := by
    rw [ejectedLeft, ← ejectedRight, toNat_ejectedRight, BitVec.toNat_ushiftRight, Nat.shiftRight_eq_div_pow]
  have ha := a.isLt
  omega

/-- A shift writes VF and then V[x], so that with x = F the result is left (R113, R114). -/
theorem shiftWriteback_advance_spec (x : RegIdx) {a f : Byte} {result flag : Nat} (ha : a.toNat = result)
    (hf : f.toNat = flag) {s : State} (hs : s.Fetchable) :
    let t := (shiftWriteback x a f s).advance
    (t.reg x).toNat = result ∧ (x ≠ vf → (t.reg vf).toNat = flag) ∧ (∀ r, r ≠ x → r ≠ vf → t.reg r = s.reg r) ∧
      t.pc.toNat = s.pc.toNat + 2 ∧ OnlyChanges [.regs, .pc] s t := by
  rw [shiftWriteback]
  refine ⟨?_, fun hx => ?_, fun r hr hv => ?_, toNat_pc_add_two s.pc hs, onlyChanges_setV_advance s _⟩
  · rw [State.advance_reg, State.reg_setReg_same, ha]
  · rw [State.advance_reg, State.reg_setReg_other _ _ _ _ hx.symm, State.reg_setReg_same, hf]
  · rw [State.advance_reg, State.reg_setReg_other _ _ _ _ hr, State.reg_setReg_other _ _ _ _ hv]

/-- Settles O28: both shifts under either source, and the machine's are those with the source V[x] (R113, R114, R117). -/
theorem shiftsEjectThenStore : Obligations.ShiftsEjectThenStore := fun _ x _ _ hs =>
  ⟨⟨_, rfl, shiftWriteback_advance_spec x (toNat_shiftRight_one _) (toNat_ejectedRight _) hs⟩,
    ⟨_, rfl, shiftWriteback_advance_spec x (toNat_shiftLeft_one _) (toNat_ejectedLeft _) hs⟩,
    rfl, rfl, ⟨_, rfl, rfl⟩, ⟨_, rfl, rfl⟩⟩

end Sys2Proof.Machine

/-! # Key input: SKP, SKNP and LD Vx,K (spec/44_input.md) -/

namespace Sys2Proof.Machine

/-! ## SKP and SKNP -/

/-- For a register value up to 15 the key queried is the whole value (R119, R165). -/
theorem held_keyOf {s : State} {x : RegIdx} (hx : (s.reg x).toNat ≤ 15) :
    held s (keyOf s x) = (Config.keysHeld s.draws).getLsbD (s.reg x).toNat := by
  have hcode : (keyOf s x).toNat = (s.reg x).toNat := Nat.mod_eq_of_lt (Nat.lt_succ_of_le hx)
  rw [held, hcode]

/-- A key skip moves the PC as a comparison skip does, and takes one draw (R82, R119, R120). -/
theorem skipIf_nextDraw_spec (c : Bool) {s : State} (hs : s.Fetchable) :
    let t := (s.skipIf c).nextDraw
    t.pc.toNat = s.pc.toNat + (if c then 4 else 2) ∧ t.draws = s.draws + 1 ∧ OnlyChanges [.pc, .draws] s t := by
  refine ⟨?_, rfl, by simp [onlyChanges_iff]⟩
  cases c with
  | true => exact toNat_pc_skipIf_of_true hs rfl
  | false => exact toNat_pc_skipIf_of_false hs rfl

/-- Settles O30: SKP skips on the answer for the key in V[x], SKNP on its negation (R119, R120). -/
theorem keySkips : Obligations.KeySkips := by
  intro x s hs hx
  have hskp := ((exec_skp_cases x s).resolve_left fun h => hx.not_gt h.1).2
  have hsknp := ((exec_sknp_cases x s).resolve_left fun h => hx.not_gt h.1).2
  rw [held_keyOf hx] at hskp hsknp
  refine ⟨⟨_, hskp, skipIf_nextDraw_spec _ hs⟩, ⟨_, hsknp, ?_⟩⟩
  simpa only [Bool.not_eq_true', ← Bool.not_eq_true, ite_not] using
    skipIf_nextDraw_spec (!(Config.keysHeld s.draws).getLsbD (s.reg x).toNat) hs

/-- Settles O31: past 15 both instructions raise, and raising writes the fault register only (R122, R137). -/
theorem keyCodePastFifteenFaults : Obligations.KeyCodePastFifteenFaults := by
  intro x s i hi hx
  have hexec : exec i s = raiseIn i .keyOutOfRange ((s.reg x).setWidth 16) s := by
    obtain rfl | rfl := hi
    · exact ((exec_skp_cases x s).resolve_right fun h => hx.not_ge h.1).2
    · exact ((exec_sknp_cases x s).resolve_right fun h => hx.not_ge h.1).2
  exact ⟨_, hexec, ⟨_, BitVec.toNat_setWidth_of_le (by decide), rfl⟩, onlyChanges_setFault s _⟩

/-! ## LD Vx,K -/

/-- When `any_held()` answers none, the host's key state has no bit set (R166). -/
theorem getLsbD_keysHeld_of_anyHeld_eq_none {s : State} (h : anyHeld s = none) {k : Nat} (hk : k < 16) :
    (Config.keysHeld s.draws).getLsbD k = false := by
  have hnot : BitVec.ofNat 4 k ∉ heldKeys s := by
    rw [(anyHeld_eq_none s).1 h]
    exact List.not_mem_nil
  rwa [mem_heldKeys, BitVec.toNat_ofNat, Nat.mod_eq_of_lt hk, Bool.not_eq_true] at hnot

/-- The state LD Vx,K ends in with the key `k`: V[x] holds its code, and the PC is 2 further (R121). -/
theorem setReg_key_advance_nextDraw_spec (x : RegIdx) (k : KeyCode) {s : State} (hs : s.Fetchable) :
    let t := (s.setReg x (k.setWidth 8)).advance.nextDraw
    (t.reg x).toNat = k.toNat ∧ (∀ r, r ≠ x → t.reg r = s.reg r) ∧ t.pc.toNat = s.pc.toNat + 2 ∧
      OnlyChanges [.regs, .pc, .draws] s t := by
  obtain ⟨hother, hpc, -⟩ := setReg_advance_frame x (k.setWidth 8) hs
  refine ⟨?_, hother, hpc, by simp [onlyChanges_iff]⟩
  rw [State.nextDraw_reg, State.advance_reg, State.reg_setReg_same, BitVec.toNat_setWidth_of_le (by decide)]

/-- Settles O32: the two answers of `any_held()`, none held and one held key, give the wait and the store (R121, R166). -/
theorem awaitKeyWaitsOrStores : Obligations.AwaitKeyWaitsOrStores := by
  intro x s hs
  have hstore (k : KeyCode) := setReg_key_advance_nextDraw_spec x k hs
  obtain ⟨hnone, hexec⟩ | ⟨k, hk, hexec⟩ := exec_ldVxK_cases x s
  · have hwait : OnlyChanges [.draws] s s.nextDraw := by simp [onlyChanges_iff]
    exact ⟨_, hexec, rfl, .inl ⟨fun _ => getLsbD_keysHeld_of_anyHeld_eq_none hnone, hwait⟩, rfl, rfl,
      fun k => ⟨_, rfl, hstore k⟩⟩
  · have hheld := (mem_heldKeys s k).1 (anyHeld_mem s k hk)
    exact ⟨_, hexec, rfl, .inr ⟨k.toNat, k.isLt, hheld, hstore k⟩, rfl, rfl, fun k => ⟨_, rfl, hstore k⟩⟩

end Sys2Proof.Machine

/-! # Index, memory and timer instructions (spec/45_index_memory_timer.md)

LD [I],Vx and LD Vx,[I] each have one lemma about the state they end in, in range; the round trip of R134 is these two in a
row. -/

namespace Sys2Proof.Machine

/-- A natural that fits is kept exactly. -/
theorem toNat_ofNat_of_lt {w n : Nat} (h : n < 2 ^ w) : (BitVec.ofNat w n).toNat = n := by
  rw [BitVec.toNat_ofNat, Nat.mod_eq_of_lt h]

/-! ## The index register -/

/-- LD I, LD F and a sum that fits: I takes the address, the PC is 2 further, and no other part changes (R124 to R126). -/
theorem setI_advance_spec {a : Word} {n : Nat} (ha : a.toNat = n) {s : State} (hs : s.Fetchable) :
    let t := (s.setI a).advance
    t.i.toNat = n ∧ t.pc.toNat = s.pc.toNat + 2 ∧ OnlyChanges [.index, .pc] s t :=
  ⟨ha, toNat_pc_add_two s.pc hs, by simp [onlyChanges_iff]⟩

/-- A glyph's address does not wrap: it is at most 1275 (R126). -/
theorem toNat_glyphAddress (v : Byte) : (glyphAddress v).toNat = v.toNat * 5 := by
  have hv := v.isLt
  exact toNat_ofNat_of_lt (show v.toNat * 5 < 2 ^ 16 by omega)

/-- Settles O33: both forms set I, to an address that is exact in 16 bits (R124, R126). -/
theorem indexLoads : Obligations.IndexLoads := fun nnn x s hs =>
  ⟨⟨_, rfl, setI_advance_spec (toNat_addressOf nnn) hs⟩,
    ⟨_, rfl, setI_advance_spec (toNat_glyphAddress (s.reg x)) hs⟩⟩

/-- Settles O34: the two outcomes of ADD I,Vx, told apart by the exact sum (R125). -/
theorem addIndexOrOverflow : Obligations.AddIndexOrOverflow := by
  refine fun x s hs => ⟨fun hfits => ?_, fun hover => ?_⟩
  · have hexec := ((exec_addI_cases x s).resolve_left fun h => hfits.not_gt h.1).2
    exact ⟨_, hexec, setI_advance_spec (toNat_ofNat_of_lt (Nat.lt_succ_of_le hfits)) hs⟩
  · have hexec := ((exec_addI_cases x s).resolve_right fun h => hover.not_ge h.1).2
    exact ⟨_, hexec, ⟨_, BitVec.toNat_ofNat _ _, rfl⟩, onlyChanges_setFault s _⟩

/-! ## Bytes stored and registers loaded -/

/-- The k-th of the bytes stored from `a` on is read back at `a + k` (R52, R54). -/
theorem Memory.read_writeBytes_add (m : Memory) {a k : Nat} {bs : List Byte} (h : a + bs.length ≤ Config.memSize)
    (hk : k < bs.length) : (m.writeBytes a bs).read (a + k) = bs.getD k 0#8 := by
  rw [Memory.read_writeBytes bs m a (a + k) h, if_pos (by omega), Nat.add_sub_cancel_left]

/-- Every byte before or after those stored is as it was (R54). -/
theorem Memory.read_writeBytes_outside (m : Memory) {a k : Nat} {bs : List Byte} (h : a + bs.length ≤ Config.memSize)
    (hk : k < a ∨ a + bs.length ≤ k) : (m.writeBytes a bs).read k = m.read k := by
  rw [Memory.read_writeBytes bs m a k h, if_neg (by omega)]

/-- Loading the bytes from address `a` on into V0..Vx: V[k] takes the byte at `a + k`, and the registers above x are as they
were (R129). -/
theorem setRegsFrom_readBytes_spec (m : Memory) (a : Nat) (x : RegIdx) (s : State) :
    ∃ v, s.setRegsFrom 0 (m.readBytes a (rangeCount x)) = s.setV v ∧
      (∀ r : RegIdx, r.toNat ≤ x.toNat → (s.setV v).reg r = m.read (a + r.toNat)) ∧
      (∀ r : RegIdx, x.toNat < r.toNat → (s.setV v).reg r = s.reg r) := by
  have hx := x.isLt
  have hlen : (m.readBytes a (rangeCount x)).length = x.toNat + 1 := Memory.readBytes_length _ _ _
  obtain ⟨v, hv, hreg⟩ := setRegsFrom_setV (m.readBytes a (rangeCount x)) s 0 (by omega)
  refine ⟨v, hv, fun r hr => ?_, fun r hr => ?_⟩
  · rw [hreg r, if_pos (by omega), Nat.sub_zero]
    exact Memory.readBytes_getD m a _ _ (Nat.lt_succ_of_le hr)
  · rw [hreg r, if_neg (by omega)]

/-- The post-increment of a dump or load in range does not wrap (R27, R128, R129). -/
theorem toNat_bumpIndex {x : RegIdx} {s : State} (hr : s.i.toNat + x.toNat < 4096) :
    (s.bumpIndex x).i.toNat = s.i.toNat + x.toNat + 1 :=
  toNat_ofNat_of_lt (show s.i.toNat + x.toNat + 1 < 2 ^ 16 by omega)

/-! ## LD B, LD [I],Vx and LD Vx,[I] -/

/-- A digit kept in a byte is the digit. -/
theorem toNat_ofNat_digit {n : Nat} (h : n < 10) : (BitVec.ofNat 8 n).toNat = n :=
  toNat_ofNat_of_lt (Nat.lt_trans h (by decide))

/-- Settles O35: the three bytes stored from I on are the hundreds, tens and ones of V[x] (R127). -/
theorem bcdStoresThreeDigits : Obligations.BcdStoresThreeDigits := by
  intro x s hs hr
  have hv := (s.reg x).isLt
  have hdigit {k : Nat} (hk : k < 3) := Memory.read_writeBytes_add s.mem (bs := bcdDigits (s.reg x)) hr hk
  refine ⟨_, effect_of_in_range (exec_ldB_cases x s) hr, ?_, ?_, ?_, fun a ha => ?_, toNat_pc_add_two s.pc hs,
    by simp [onlyChanges_iff]⟩
  · exact (congrArg BitVec.toNat (hdigit (k := 0) (by decide))).trans (toNat_ofNat_digit (by omega))
  · exact (congrArg BitVec.toNat (hdigit (k := 1) (by decide))).trans (toNat_ofNat_digit (by omega))
  · exact (congrArg BitVec.toNat (hdigit (k := 2) (by decide))).trans (toNat_ofNat_digit (by omega))
  · exact Memory.read_writeBytes_outside s.mem hr ha

/-- LD [I],Vx in range, from any state: V0..Vx are stored from I on, and I and the PC advance (R128). -/
theorem exec_ldMemVx_of_in_range {x : RegIdx} {s : State} (hr : s.i.toNat + x.toNat < 4096) :
    ∃ t, exec (.ldMemVx x) s = .next t ∧
      (∀ r : RegIdx, r.toNat ≤ x.toNat → t.mem.read (s.i.toNat + r.toNat) = s.reg r) ∧
      (∀ a, a < s.i.toNat ∨ s.i.toNat + x.toNat < a → t.mem.read a = s.mem.read a) ∧
      t.i.toNat = s.i.toNat + x.toNat + 1 ∧ t.pc = s.pc + 2#16 ∧ OnlyChanges [.memory, .index, .pc] s t := by
  have hlen : (rangeBytes x s).length = x.toNat + 1 := rangeBytes_length x s
  have hfits : s.i.toNat + (rangeBytes x s).length ≤ Config.memSize := by rwa [hlen]
  refine ⟨_, effect_of_in_range (exec_ldMemVx_cases x s) hr, fun r hrx => ?_, fun a ha => ?_, toNat_bumpIndex hr, rfl,
    by simp [onlyChanges_iff]⟩
  · exact (Memory.read_writeBytes_add s.mem hfits (by omega)).trans (rangeBytes_getD x r s hrx)
  · have hout : a < s.i.toNat ∨ s.i.toNat + (rangeBytes x s).length ≤ a := by omega
    exact Memory.read_writeBytes_outside s.mem hfits hout

/-- LD Vx,[I] in range, from any state: V0..Vx are loaded from I on, and I and the PC advance (R129). -/
theorem exec_ldVxMem_of_in_range {x : RegIdx} {s : State} (hr : s.i.toNat + x.toNat < 4096) :
    ∃ t, exec (.ldVxMem x) s = .next t ∧
      (∀ r : RegIdx, r.toNat ≤ x.toNat → t.reg r = s.mem.read (s.i.toNat + r.toNat)) ∧
      (∀ r : RegIdx, x.toNat < r.toNat → t.reg r = s.reg r) ∧
      t.i.toNat = s.i.toNat + x.toNat + 1 ∧ t.pc = s.pc + 2#16 ∧ OnlyChanges [.regs, .index, .pc] s t := by
  obtain ⟨v, hv, hloaded, hkept⟩ := setRegsFrom_readBytes_spec s.mem (baseAddress s) x s
  have hexec := effect_of_in_range (exec_ldVxMem_cases x s) hr
  rw [hv] at hexec
  exact ⟨_, hexec, hloaded, hkept, toNat_bumpIndex (s := s.setV v) hr, rfl, by simp [onlyChanges_iff]⟩

/-- Settles O36: the dump in range, whose PC does not wrap after a fetch (R26, R128). -/
theorem dumpStoresRegisters : Obligations.DumpStoresRegisters := by
  intro x s hs hr
  obtain ⟨t, hexec, hstored, hkept, hi, hpc, honly⟩ := exec_ldMemVx_of_in_range hr
  exact ⟨t, hexec, hstored, hkept, hi, hpc ▸ toNat_pc_add_two s.pc hs, honly⟩

/-- Settles O37: the load in range, whose PC does not wrap after a fetch (R26, R129). -/
theorem loadReadsRegisters : Obligations.LoadReadsRegisters := by
  intro x s hs hr
  obtain ⟨t, hexec, hloaded, hkept, hi, hpc, honly⟩ := exec_ldVxMem_of_in_range hr
  exact ⟨t, hexec, hloaded, hkept, hi, hpc ▸ toNat_pc_add_two s.pc hs, honly⟩

/-- Settles O38: the load reads at I + k the byte the dump stored there, which is V[k] (R128, R129, R134). -/
theorem dumpThenLoadRestores : Obligations.DumpThenLoadRestores := by
  intro x s u hr
  obtain ⟨t, hdump, hstored, -, hi, -, -⟩ := exec_ldMemVx_of_in_range hr
  refine ⟨t, hdump, hi, fun hmem hui => ?_⟩
  obtain ⟨z, hload, hloaded, hkept, hzi, -, -⟩ := exec_ldVxMem_of_in_range (x := x) (s := u) (by rwa [hui])
  rw [hui] at hloaded hzi
  refine ⟨z, hload, fun r hrx => ?_, hkept, hzi⟩
  rw [hloaded r hrx, hmem, hstored r hrx]

/-! ## The timer instructions -/

/-- Settles O41: the byte written is `get_scaled` of the delay timer, exact within the bound of R33 (R130). -/
theorem readDelayTimer : Obligations.ReadDelayTimer := by
  intro x s hs hbound
  refine ⟨_, rfl, ?_, setReg_advance_frame x (getScaled s.dtNs) hs⟩
  rw [State.advance_reg, State.reg_setReg_same, toNat_getScaled s.dtNs hbound]

/-- Settles O42: each form stores `set_scaled` of V[x] in its timer, and LD ST sets the sound flag too (R131, R132). -/
theorem setTimers : Obligations.SetTimers := fun _ s hs =>
  ⟨⟨_, rfl, rfl, toNat_pc_add_two s.pc hs, by simp [onlyChanges_iff]⟩,
    ⟨_, rfl, rfl, rfl, toNat_pc_add_two s.pc hs, by simp [onlyChanges_iff]⟩⟩

end Sys2Proof.Machine

/-! # Unknown words (spec/46_unknown.md) -/

namespace Sys2Proof.Machine

/-- The machine's UNKNOWN is the word under `noop`: the diagnostic is emitted, then the PC advances (R135). -/
theorem exec_unknown (w : Word) (s : State) : exec (.unknown w) s = .next (s.emit w).advance := rfl

/-- Emitting and advancing adds the diagnostic with the word's own address, and changes the PC besides (R135). -/
theorem emit_advance_spec (w : Word) {s : State} (hs : s.Fetchable) :
    let t := (s.emit w).advance
    t.pc.toNat = s.pc.toNat + 2 ∧ t.diagnostics = { pc := s.pc, word := w } :: s.diagnostics ∧
      OnlyChanges [.pc, .diagnostics] s t :=
  ⟨toNat_pc_add_two s.pc hs, (State.advance_diagnostics _).trans (State.emit_diagnostics s w), by simp [onlyChanges_iff]⟩

/-- Settles O11: both sides of the `noop` equation are the emitted and advanced state, and `refuse` answers its refusal
(R135, R136). -/
theorem unknownIsNoopOrRefused : Obligations.UnknownIsNoopOrRefused := fun w s hs =>
  ⟨⟨_, exec_unknown w s, emit_advance_spec w hs⟩, (exec_unknown w s).symm, rfl⟩

end Sys2Proof.Machine

/-! # Exceptions, timers and the scheduler (spec/60_exceptions.md)

A cycle ends in one of two ways: with a fault recorded, when nothing but the fault register has changed, or with no fault, when
it executed an instruction and counted down. The timer law is an induction over cycles of the second kind. -/

namespace Sys2Proof.Machine

/-! ## The two ends of a cycle -/

/-- A cycle that ends with a fault has set the fault register, at the PC it started with, and done nothing else (R137, R140). -/
theorem cycle_eq_setFault {d : Nat} {s t : State} {r : FaultRecord} (h : cycle d s = .next t) (hr : t.fault = some r) :
    r.pc = s.pc ∧ t = s.setFault (some r) := by
  obtain ⟨hs, ⟨-, rfl⟩ | ⟨w, u, -, hu, rfl⟩⟩ := cycle_next d s t h
  · obtain rfl := Option.some.inj hr
    exact ⟨rfl, rfl⟩
  · cases hf : u.fault with
    | none =>
      rw [endCycle_of_none d u hf, timerCountdown_fault, hf] at hr
      exact absurd hr.symm (Option.some_ne_none r)
    | some q =>
      rw [endCycle_of_some d u q hf] at hr ⊢
      exact (effect_of_exec hu).eq_setFault hs hr

/-- A cycle that ends with no fault has executed the instruction it fetched and then counted down (R81). -/
theorem cycle_eq_timerCountdown {d : Nat} {s t : State} (h : cycle d s = .next t) (ht : t.fault = none) :
    ∃ i u, nextInstr s = some i ∧ exec i s = .next u ∧ t = timerCountdown d u := by
  obtain ⟨-, ⟨-, rfl⟩ | ⟨w, u, hw, hu, rfl⟩⟩ := cycle_next d s t h
  · exact absurd ht (Option.some_ne_none _)
  · cases hf : u.fault with
    | none => exact ⟨decodeWord w, u, Option.map_eq_some_iff.2 ⟨w, hw, rfl⟩, hu, endCycle_of_none d u hf⟩
    | some q =>
      rw [endCycle_of_some d u q hf, hf] at ht
      exact absurd ht (Option.some_ne_none q)

/-- Settles O8: a step is a cycle of the state the scheduler hands over, and a cycle that ends with a fault has only set the
fault register. -/
theorem faultsArePrecise : Obligations.FaultsArePrecise := by
  intro s t r _ hstep hr
  obtain ⟨hpc, rfl⟩ := cycle_eq_setFault hstep hr
  have hbegin := (onlyChanges_beginCycle s).mono (qs := [.faultReg, .accumulator, .draws]) (by decide)
  exact ⟨hbegin.trans ((onlyChanges_setFault _ _).mono (by decide)), hpc⟩

/-! ## The record of a raised fault

An instruction of a running core has ended in `t` with the record `r`. Each lemma takes the outcomes of the instruction and
leaves the one that raises. -/

/-- Loading registers leaves the fault register alone. -/
@[simp] theorem State.setRegsFrom_fault (s : State) (k : Nat) (bs : List Byte) : (s.setRegsFrom k bs).fault = s.fault := by
  induction bs generalizing s k with
  | nil => rfl
  | cons b bs ih => exact ih _ _

section RaisedRecord

variable {i : Instr} {s t u : State} {r : FaultRecord}
  (hs : s.fault = none) (h : exec i s = .next t) (hr : t.fault = some r)

include h hr in
/-- The outcome was the raise: the record is the one it writes (R137). -/
theorem record_of_raiseIn {c : FaultCause} {info : Word} (he : exec i s = raiseIn i c info s) :
    r = ⟨c, s.pc, some (encode i), info⟩ := by
  obtain rfl := Host.Outcome.next.inj (h.symm.trans he)
  exact (Option.some.inj hr).symm

include hs h hr

/-- The outcome was no next state with the fault register as before. -/
theorem not_exec_next_of_fault_eq (hu : u.fault = s.fault) : exec i s ≠ .next u := by
  intro he
  obtain rfl := Host.Outcome.next.inj (h.symm.trans he)
  exact Option.some_ne_none r (hr.symm.trans (hu.trans hs))

/-- A range check that raised: some address does not exist, and the info is the lowest such (R47). -/
theorem record_of_rangeCheck {n : Nat}
    (hcases : (∃ a, rangeFault (baseAddress s) n = some a ∧ exec i s = raiseIn i .memoryOutOfRange a s) ∨
      (rangeFault (baseAddress s) n = none ∧ exec i s = .next u)) (hu : u.fault = s.fault) :
    n ≠ 0 ∧ 4096 < s.i.toNat + n ∧ r.pc = s.pc ∧ r.word = some (encode i) ∧ r.cause = .memoryOutOfRange ∧
      r.info.toNat = max s.i.toNat 4096 := by
  obtain ⟨a, ha, he⟩ | ⟨-, he⟩ := hcases
  · obtain ⟨hn, hout, rfl⟩ := rangeFault_inv _ _ _ ha
    obtain rfl := record_of_raiseIn h hr he
    exact ⟨hn, hout, rfl, rfl, rfl, toNat_info s.i⟩
  · exact absurd he (not_exec_next_of_fault_eq hs h hr hu)

/-- A check of a key code that raised: the value is past 15, and it is the info (R122). -/
theorem record_of_keyCheck {x : RegIdx}
    (hcases : (15 < (s.reg x).toNat ∧ exec i s = raiseIn i .keyOutOfRange ((s.reg x).setWidth 16) s) ∨
      ((s.reg x).toNat ≤ 15 ∧ exec i s = .next u)) (hu : u.fault = s.fault) :
    15 < (s.reg x).toNat ∧ r.pc = s.pc ∧ r.word = some (encode i) ∧ r.cause = .keyOutOfRange ∧
      r.info.toNat = (s.reg x).toNat := by
  obtain ⟨hx, he⟩ | ⟨-, he⟩ := hcases
  · obtain rfl := record_of_raiseIn h hr he
    exact ⟨hx, rfl, rfl, rfl, BitVec.toNat_setWidth_of_le (by decide)⟩
  · exact absurd he (not_exec_next_of_fault_eq hs h hr hu)

end RaisedRecord

/-- Settles O9: only the instructions of the fault table write the fault register, and each of them raises in one of its
outcomes (R138). -/
theorem onlyListedConditionsFault : Obligations.OnlyListedConditionsFault := by
  refine ⟨fun i s t r hs h hr => ?_, rfl, rfl, rfl, rfl, rfl, rfl⟩
  have hmay : MayFault i := (effect_of_exec h).fault_writer (by simp [hr, hs])
  obtain rfl | ⟨x, y, n, rfl, hn⟩ | ⟨x, rfl | rfl | rfl | rfl | rfl | rfl⟩ := hmay
  · obtain hempty | ⟨below, a, hstack⟩ := List.eq_nil_or_concat' s.stack
    · obtain rfl := record_of_raiseIn h hr (exec_ret_of_stack_eq_nil s hempty)
      exact ⟨rfl, rfl, .inl ⟨rfl, hempty, rfl, rfl⟩⟩
    · exact absurd (exec_ret_append s below a hstack) (not_exec_next_of_fault_eq hs h hr rfl)
  · obtain ⟨-, hout, hpc, hword, hrow⟩ := record_of_rangeCheck hs h hr (exec_drw_cases x y n s) rfl
    exact ⟨hpc, hword, .inr (.inl ⟨x, y, n, rfl, hn, hout, hrow⟩)⟩
  · obtain ⟨-, hout, hpc, hword, hrow⟩ := record_of_rangeCheck hs h hr (exec_ldB_cases x s) rfl
    exact ⟨hpc, hword, .inr (.inr (.inl ⟨x, rfl, hout, hrow⟩))⟩
  · obtain ⟨-, hout, hpc, hword, hrow⟩ := record_of_rangeCheck hs h hr (exec_ldMemVx_cases x s) rfl
    exact ⟨hpc, hword, .inr (.inr (.inr (.inl ⟨x, .inl rfl, hout, hrow⟩)))⟩
  · obtain ⟨-, hout, hpc, hword, hrow⟩ :=
      record_of_rangeCheck hs h hr (exec_ldVxMem_cases x s) (State.setRegsFrom_fault s 0 _)
    exact ⟨hpc, hword, .inr (.inr (.inr (.inl ⟨x, .inr rfl, hout, hrow⟩)))⟩
  · obtain ⟨hover, he⟩ | ⟨-, he⟩ := exec_addI_cases x s
    · obtain rfl := record_of_raiseIn h hr he
      exact ⟨rfl, rfl, .inr (.inr (.inr (.inr (.inl ⟨x, rfl, hover, rfl, BitVec.toNat_ofNat _ _⟩))))⟩
    · exact absurd he (not_exec_next_of_fault_eq hs h hr rfl)
  · obtain ⟨hx, hpc, hword, hrow⟩ := record_of_keyCheck hs h hr (exec_skp_cases x s) rfl
    exact ⟨hpc, hword, .inr (.inr (.inr (.inr (.inr ⟨x, .inl rfl, hx, hrow⟩))))⟩
  · obtain ⟨hx, hpc, hword, hrow⟩ := record_of_keyCheck hs h hr (exec_sknp_cases x s) rfl
    exact ⟨hpc, hword, .inr (.inr (.inr (.inr (.inr ⟨x, .inr rfl, hx, hrow⟩))))⟩

/-! ## The timers over cycles -/

/-- A countdown writes the two timers and the sound flag only (R150). -/
theorem onlyChanges_timerCountdown (d : Nat) (s : State) : OnlyChanges [.delay, .sound, .audio] s (timerCountdown d s) := by
  simp [onlyChanges_iff]

/-- Settles O44: the three parts a countdown writes, by their equations (R150, R153). -/
theorem countdownClearsSoundFlag : Obligations.CountdownClearsSoundFlag := by
  refine fun d s => ⟨timerCountdown_dtNs d s, timerCountdown_stNs d s, fun h => ?_, fun h => ?_,
    onlyChanges_timerCountdown d s⟩
  · rw [timerCountdown_playing, h]
    exact Bool.and_false _
  · rw [timerCountdown_playing, beq_false_of_ne h]
    exact Bool.and_true _

/-- `timer` is set by the instruction `setter x` to V[x] ticks, kept by every other instruction, and lowered by the countdown:
what the delay and the sound timer have in common (R31, R34, R150). -/
structure IsTimer (timer : State → Nat) (setter : RegIdx → Instr) : Prop where
  counts : ∀ d s, timer (timerCountdown d s) = timer s - d
  sets : ∀ x s u, exec (setter x) s = .next u → timer u = setScaled (s.reg x)
  keeps : ∀ i s u, exec i s = .next u → (∀ x, i ≠ setter x) → timer u = timer s

theorem isTimer_delay : IsTimer State.dtNs .ldDtVx where
  counts := timerCountdown_dtNs
  sets _ _ _ h := Host.Outcome.next.inj h ▸ rfl
  keeps _ _ _ h hi := by_contra fun hne => ((effect_of_exec h).delay_writer hne).elim hi

theorem isTimer_sound : IsTimer State.stNs .ldStVx where
  counts := timerCountdown_stNs
  sets _ _ _ h := Host.Outcome.next.inj h ▸ rfl
  keeps _ _ _ h hi := by_contra fun hne => ((effect_of_exec h).sound_writer hne).elim hi

section TimerCycles

variable {timer : State → Nat} {setter : RegIdx → Instr} (ht : IsTimer timer setter) {d : Nat}

include ht

/-- The countdown of the setting cycle comes after the set (R152). -/
theorem IsTimer.cycle_set {s t : State} {x : RegIdx} (h : cycle d s = .next t) (hf : t.fault = none)
    (hi : nextInstr s = some (setter x)) : timer t = (s.reg x).toNat * Config.timerTickNs - d := by
  obtain ⟨i, u, hi', hu, rfl⟩ := cycle_eq_timerCountdown h hf
  obtain rfl := Option.some.inj (hi.symm.trans hi')
  rw [ht.counts, ht.sets x s u hu, setScaled]

/-- A cycle that does not set the timer only counts it down (R152). -/
theorem IsTimer.cycle_other {s t : State} (h : cycle d s = .next t) (hf : t.fault = none)
    (hi : ∀ x, nextInstr s ≠ some (setter x)) : timer t = timer s - d := by
  obtain ⟨i, u, hi', hu, rfl⟩ := cycle_eq_timerCountdown h hf
  rw [ht.counts, ht.keeps i s u hu fun x hx => hi x (hx ▸ hi')]

/-- The timer after the j-th cycle after the setting one, by induction on j (R152). -/
theorem IsTimer.run_eq (f : Nat → State) (x : RegIdx) (j : Nat)
    (hrun : ∀ k, k ≤ j → cycle d (f k) = .next (f (k + 1)) ∧ (f (k + 1)).fault = none)
    (hset : nextInstr (f 0) = some (setter x)) (hkeep : ∀ k, 0 < k → k ≤ j → ∀ z, nextInstr (f k) ≠ some (setter z)) :
    timer (f (j + 1)) = ((f 0).reg x).toNat * Config.timerTickNs - (j + 1) * d := by
  induction j with
  | zero =>
    obtain ⟨hcycle, hf⟩ := hrun 0 (Nat.le_refl 0)
    rw [ht.cycle_set hcycle hf hset, Nat.zero_add, Nat.one_mul]
  | succ j ih =>
    obtain ⟨hcycle, hf⟩ := hrun (j + 1) (Nat.le_refl _)
    have hprev := ih (fun k hk => hrun k (Nat.le_succ_of_le hk)) fun k hpos hk => hkeep k hpos (Nat.le_succ_of_le hk)
    rw [ht.cycle_other hcycle hf (hkeep (j + 1) (Nat.succ_pos j) (Nat.le_refl _)), hprev, Nat.sub_sub, ← Nat.succ_mul]

end TimerCycles

/-- Settles O45: the law of a timer, for the delay and for the sound timer (R152). -/
theorem cappedTimerLaw : Obligations.CappedTimerLaw := by
  refine fun d j f x hrun => ⟨fun hset hkeep => ?_, fun hset hkeep => ?_⟩
  · rw [scaledTicks_eq, isTimer_delay.run_eq f x j hrun hset hkeep]
    exact ⟨rfl, rfl⟩
  · rw [scaledTicks_eq, isTimer_sound.run_eq f x j hrun hset hkeep]
    exact ⟨rfl, rfl⟩

/-- A countdown of at most one tick leaves `v` ticks with `v - 1` whole ones (R187). -/
theorem mul_sub_div_eq_pred {v T d : Nat} (hd : 0 < d) (hT : d ≤ T) (hv : 1 ≤ v) : (v * T - d) / T = v - 1 := by
  obtain ⟨n, rfl⟩ : ∃ n, v = n + 1 := ⟨v - 1, (Nat.sub_add_cancel hv).symm⟩
  have hsplit : (n + 1) * T - d = T - d + n * T := by
    rw [Nat.succ_mul]
    omega
  rw [hsplit, Nat.add_mul_div_right _ _ (by omega), Nat.div_eq_of_lt (by omega), Nat.zero_add, Nat.add_sub_cancel]

/-- Settles O46: between the set and the read lies one countdown, and what it leaves is within the bound of R33 (R187). -/
theorem delayReadAfterSet : Obligations.DelayReadAfterSet := by
  intro d x y s t u hset hs hread ht
  obtain ⟨hf, -⟩ := cycle_next d t u ht
  have hdt : t.dtNs = (s.reg x).toNat * Config.timerTickNs - d := isTimer_delay.cycle_set hs hf hset
  have hbound : t.dtNs ≤ 255 * Config.timerTickNs := hdt ▸ (Nat.sub_le _ _).trans (setScaled_le _)
  obtain rfl := Host.Outcome.next.inj (ht.symm.trans (cycle_of_nextInstr d hf hread rfl hf))
  have hreg : (timerCountdown d (t.setReg y (getScaled t.dtNs)).advance).reg y = getScaled t.dtNs := by
    rw [timerCountdown_reg, State.advance_reg, State.reg_setReg_same]
  rw [hreg, toNat_getScaled _ hbound, hdt]
  exact ⟨rfl, mul_sub_div_eq_pred⟩

/-! ## The scheduler iteration -/

/-- With the gate closed or a fault recorded, a tick past the threshold resets the accumulator and runs no cycle (R139, R154). -/
theorem fireTick_closed {d : Nat} {gate : Bool} {s : State} (h : gate = false ∨ s.fault ≠ none) :
    fireTick d gate s = .next (s.setAcc 0) := by
  obtain rfl | h := h
  · rfl
  · obtain ⟨r, hr⟩ := Option.ne_none_iff_exists'.1 h
    exact fireTick_of_fault d gate s r hr

/-- Settles O47: up to `d` the sum is kept, and past it the iteration fires (R154). -/
theorem cappedTick : Obligations.CappedTick := by
  refine fun d delta gate s => ⟨fun hle => ?_, fun hlt hgate hf => ?_, fun hlt hclosed => ?_⟩
  · exact ⟨_, if_neg hle.not_gt, rfl, onlyChanges_setAcc s _⟩
  · rw [tickCapped_of_lt d delta gate s hlt, hgate]
    exact fireTick_open d s hf
  · exact ⟨_, (tickCapped_of_lt d delta gate s hlt).trans (fireTick_closed hclosed), rfl, onlyChanges_setAcc s 0⟩

/-- Settles O48: the uncapped iteration fires every time, with the delta as the cycle's amount (R155, R160). -/
theorem uncappedTick : Obligations.UncappedTick := by
  refine fun delta gate s => ⟨?_, fun hclosed => ?_⟩
  · rintro rfl hf
    exact fireTick_open delta s hf
  · exact ⟨_, fireTick_closed hclosed, rfl, onlyChanges_setAcc s 0⟩

end Sys2Proof.Machine

/-! # Construction and the normal end (spec/70_reset_and_hazards.md) -/

namespace Sys2Proof.Machine

/-! ## Construction -/

/-- The three outcomes of a construction from ROM bytes, by how many there are (R176). -/
theorem construct_cases (f : ResetFill) (rom : List Byte) :
    (rom.length = 0 ∧ construct f (some rom) = .error .romEmpty) ∨
    (3488 < rom.length ∧ construct f (some rom) = .error .romTooBig) ∨
    (0 < rom.length ∧ rom.length ≤ 3488 ∧ construct f (some rom) = .ok (bootState f rom)) := by
  have hsize : Config.romSize = 3488 := rfl
  simp only [construct, hsize]
  split_ifs with hzero hbig
  · exact .inl ⟨hzero, rfl⟩
  · exact .inr (.inl ⟨hbig, rfl⟩)
  · exact .inr (.inr ⟨Nat.pos_of_ne_zero hzero, Nat.le_of_not_lt hbig, rfl⟩)

/-- Settles O52: the three outcomes differ, and so do the lengths that lead to them (R176). -/
theorem constructRejectsBadRom : Obligations.ConstructRejectsBadRom := by
  intro f rom
  obtain ⟨hlen, h⟩ | ⟨hlen, h⟩ | ⟨hpos, hle, h⟩ := construct_cases f rom
  · exact ⟨iff_of_true hlen h, iff_of_false (by omega) (by simp [h]), fun _ => by omega, rfl⟩
  · exact ⟨iff_of_false (by omega) (by simp [h]), iff_of_true hlen h, fun _ => by omega, rfl⟩
  · exact ⟨iff_of_false (by omega) (by simp [h]), iff_of_false (by omega) (by simp [h]), fun _ _ => ⟨_, h⟩, rfl⟩

/-- Memory of a new machine: the font below 80, the ROM from 512 on, and the fill elsewhere (R178). -/
theorem bootMemory_read (f : ResetFill) {rom : List Byte} (hrom : rom.length ≤ 3488) :
    (∀ a, a < 80 → (bootMemory f rom).read a = Policy.font.getD a 0#8) ∧
    (∀ k, k < rom.length → (bootMemory f rom).read (512 + k) = rom.getD k 0#8) ∧
    (∀ a, 80 ≤ a → (a < 512 ∨ 512 + rom.length ≤ a) → (bootMemory f rom).read a = f.mem.read a) := by
  have hfont : 0 + Policy.font.length ≤ Config.memSize := by decide
  have hfits : Config.progBase + rom.length ≤ Config.memSize := by
    simp only [Config.progBase, Config.memSize]
    omega
  have hoff {a : Nat} (ha : a < 512 ∨ 512 + rom.length ≤ a) :
      (bootMemory f rom).read a = (f.mem.writeBytes 0 Policy.font).read a := Memory.read_writeBytes_outside _ hfits ha
  refine ⟨fun a ha => ?_, fun k hk => Memory.read_writeBytes_add _ hfits hk, fun a ha hout => ?_⟩
  · rw [hoff (.inl (by omega)), ← Memory.read_writeBytes_add f.mem hfont ha, Nat.zero_add]
  · rw [hoff hout]
    exact Memory.read_writeBytes_outside f.mem hfont (.inr ha)

/-- Settles O51: the ROM is accepted, and the new machine is the reset state but for the fill, the font and the ROM (R178). -/
theorem constructLoadsFontAndRom : Obligations.ConstructLoadsFontAndRom := by
  intro f rom hpos hle
  obtain ⟨hfont, hrom, hfill⟩ := bootMemory_read f hle
  obtain ⟨hlen, -⟩ | ⟨hlen, -⟩ | ⟨-, -, h⟩ := construct_cases f rom
  · omega
  · omega
  · exact ⟨bootState f rom, h, hfont, hrom, hfill, rfl, rfl, rfl, rfl, rfl, rfl, rfl, rfl, rfl, rfl⟩

/-! ## The normal end -/

/-- A jump to its own address leaves the whole state as it was (R94). -/
theorem exec_jp_self {nnn : BitVec 12} {s : State} (h : addressOf nnn = s.pc) : exec (.jp nnn) s = .next s := by
  simp only [exec, execJp, h]
  rfl

/-- The word `0x1000 | A` of an address of memory is the jump to A (R70, R193). -/
theorem decodeWord_jump_to {a : Word} (ha : a.toNat < 4096) :
    ∃ nnn, decodeWord (0x1000#16 ||| a) = .jp nnn ∧ addressOf nnn = a := by
  have htop : opField a = 0x0#4 := by
    apply BitVec.eq_of_toNat_eq
    simp only [opField, BitVec.extractLsb'_toNat, Nat.shiftRight_eq_div_pow, BitVec.toNat_ofNat]
    omega
  have ha' : 0x0#4 ++ nnnField a = a := address_of_fields htop
  have hword : 0x1000#16 ||| a = encode (.jp (nnnField a)) := by
    conv_lhs => rw [← ha', show 0x1000#16 = 0x1#4 ++ 0#12 from rfl, BitVec.or_append]
    simp [encode]
  refine ⟨nnnField a, hword ▸ decodeOfEncode _ rfl, BitVec.eq_of_toNat_eq ?_⟩
  rw [toNat_addressOf]
  simp only [nnnField, BitVec.extractLsb'_toNat]
  omega

/-- The step of a normal end is the countdown of the state the scheduler hands over (R193). -/
theorem step_of_normalEnd {s : State} (h : NormalEnd s) :
    step s = .next (timerCountdown (cycleAmount s) (beginCycle s)) := by
  obtain ⟨hf, hw⟩ := h
  have hfetch : s.pc.toNat + 1 < 4096 := fetchable_of_fetchWord hw
  obtain ⟨nnn, hdecode, haddress⟩ := decodeWord_jump_to (a := s.pc) (by omega)
  have hexec : exec (.jp nnn) (beginCycle s) = .next (beginCycle s) := exec_jp_self haddress
  rw [step_of_fetch s _ hf hw, hdecode, executeThen_next _ _ _ _ hexec, endCycle_of_none _ (beginCycle s) hf]

/-- Settles O59: neither the scheduler's part nor the countdown touches PC, memory or the fault register, so the next fetch is
the same jump (R193). -/
theorem normalEndIsStable : Obligations.NormalEndIsStable := by
  intro s h
  have hbegin := (onlyChanges_beginCycle s).mono (qs := [.delay, .sound, .audio, .accumulator, .draws]) (by decide)
  exact ⟨_, step_of_normalEnd h, h, hbegin.trans ((onlyChanges_timerCountdown _ _).mono (by decide))⟩

end Sys2Proof.Machine
